-- ==== Sys2Proof/Word.lean ====
section
/-! DEFINITION. The word types of the engine (00_scope.md R14) and the one integer helper the spec's
notation needs everywhere (R16). -/

namespace Sys2Proof

/-- A host-visible register: 32 bits (R14, R31). -/
abbrev Word := BitVec 32

/-- A byte of data memory or of the panel bus (R14, R19). -/
abbrev Byte := BitVec 8

/-- A palette code: the controller's 3-bit identifier of an ink (R14, R23). -/
abbrev Code := BitVec 3

/-- A line level, 0 or 1 (R19): `true` is 1. -/
abbrev Level := Bool

end Sys2Proof
end

