-- ==== Sys2Proof/Config.lean ====
section
/-! DEFINITION. What is fixed for one engine: the types of its parameters (00_scope.md R12), the OPEN
parameters and the free values, each a constant without a body, so that no proof can see a value. -/

namespace Sys2Proof

/-- One value for each colour channel: the `c ∈ {R, G, B}` of 10_state.md R58. -/
structure Chans (α : Type) where
  r : α
  g : α
  b : α
  deriving DecidableEq, Repr

/-- A palette entry by name; its place in this list is its index 0..5 (10_state.md R50). -/
inductive Ink where
  | black
  | white
  | yellow
  | red
  | blue
  | green
  deriving DecidableEq, Repr

/-- One value for each palette entry: the palette table (R50), the vote counters (R59). -/
structure PerInk (α : Type) where
  black : α
  white : α
  yellow : α
  red : α
  blue : α
  green : α
  deriving DecidableEq, Repr

/-- The RGB triples of the palette ROM (R50). The codes are not here: the source fixes them. -/
abbrev Palette := PerInk (Chans Byte)

/-- A step of a step list (00_scope.md R22). -/
inductive PanelStep where
  | cmd (b : Byte)
  | data (b : Byte)
  | waitBusy
  deriving DecidableEq, Repr

/-- The named durations of R12: the three reset-line hold times and the poll interval. -/
inductive Delay where
  | rstH1
  | rstL
  | rstH2
  | pollInterval
  deriving DecidableEq, Repr

/-- The implementation parameters of 00_scope.md R12, one record for one engine. They are data the
machine carries and never changes (assumption log 1), so a theorem about every state is a theorem about
every value of every parameter. -/
structure Params where
  panelW : Nat
  panelH : Nat
  regBase : Nat
  memSize : Nat
  palette : Palette
  initSeq : List PanelStep
  refreshSeq : List PanelStep
  sleepSeq : List PanelStep
  cmdDataStart : Byte
  cmdPtlWindow : Byte
  busyActive : Level
  tRstH1 : Nat
  tRstL : Nat
  tRstH2 : Nat
  pollInterval : Nat
  deriving DecidableEq, Repr

namespace Config

/-- The constant of the ID register: the bytes "DPE1", high byte first (10_state.md R43). -/
def engineId : Word := 0x44504531#32

/-- OPEN (R31): the register window's host address, counted in words, so that the byte address is a
multiple of 4. -/
opaque regBaseWord : Nat

/-- OPEN (20_memory.md R81): MEM_SIZE less one, so that 1 ≤ MEM_SIZE ≤ 2^32. -/
opaque memSizeLessOne : BitVec 32

/-- OPEN (43_panel.md R264): the initialization step list. -/
opaque initSeq : List PanelStep

/-- OPEN (43_panel.md R284): the command byte of the partial-window frame. -/
opaque cmdPtlWindow : Byte

/-- OPEN (43_panel.md R257): the busy-line level that means "busy". -/
opaque busyActive : Level

/-- OPEN (70_reset_and_hazards.md R371): the first hold time of the reset line. -/
opaque tRstH1 : Nat

/-- OPEN (R371): the second hold time of the reset line. -/
opaque tRstL : Nat

/-- OPEN (R371): the third hold time of the reset line. -/
opaque tRstH2 : Nat

/-- OPEN (R372): the delay between two busy polls. -/
opaque pollInterval : Nat

/-- Free value (43_panel.md R253): the busy-line level of the n-th draw that no pending level decides
(assumption log 5). -/
opaque freeLevel : Nat → Level

/-- Free value (20_memory.md R100): at the n-th draw, does a host load of a running command's
destination byte see the new byte (assumption log 6)? -/
opaque raceSeesNew : Nat → Bool

/-- Free value (70_reset_and_hazards.md R352): after the engine reset of the n-th draw, does the
destination byte at this address hold its new value (assumption log 7)? -/
opaque resetLeavesNew : Nat → Nat → Bool

end Config

end Sys2Proof
end

