-- ==== Sys2Proof/Syntax.lean ====
section
/-! DEFINITION. The commands of the engine: one constructor for each row of spec/opcode_table.json
(30_encoding.md R122, R123, R131). The order is the table's. -/

namespace Sys2Proof

/-- A legal command word (30_encoding.md R123). QUANTIZE has one constructor for each mode of R127;
only PANEL_DRAW_BLANK carries an operand, the CODE field, and all eight values of it decode (R128). -/
inductive Instr where
  | matchRgb
  | quantizeNone
  | quantizeFs
  | quantizeHalftone
  | quantizeOrdered
  | quantizePopart
  | pack
  | panelReset
  | panelInit
  | panelFull
  | panelPartial
  | panelBlank (code : Code)
  | panelSleep
  deriving DecidableEq, Repr

end Sys2Proof
end

