-- ==== Sys2Proof/WellFormed.lean ====
section
/-! DEFINITION. The checks on terms: which commands the engine's decoder and the spec's assembler
admit, and which parameter records an engine may have. -/

namespace Sys2Proof

/-- `valid_code(c)` (00_scope.md R21): one of the six palette codes. -/
def Code.valid (c : Code) : Bool :=
  c == 0 || c == 1 || c == 2 || c == 3 || c == 5 || c == 6

/-- A command the hardware decodes. Every constructor with every CODE has a word: "All eight values
decode" (30_encoding.md R128). -/
def Instr.WellFormed (_ : Instr) : Bool := true

/-- A command the assembler emits: it refuses a colour that is none of the six (R131). -/
def Instr.assembles : Instr → Bool
  | .panelBlank c => c.valid
  | .matchRgb | .quantizeNone | .quantizeFs | .quantizeHalftone | .quantizeOrdered | .quantizePopart
  | .pack | .panelReset | .panelInit | .panelFull | .panelPartial | .panelSleep => true

/-- A `Cmd` step. -/
def PanelStep.isCmd : PanelStep → Bool
  | .cmd _ => true
  | .data _ => false
  | .waitBusy => false

/-- The constraints on the parameters: the resolution (R13), the register window's alignment
(10_state.md R31), the memory size (20_memory.md R81) and the refresh list (43_panel.md R263). -/
def Params.WellFormed (p : Params) : Bool :=
  decide (1 ≤ p.panelW) && decide (p.panelW ≤ 65535) &&
  decide (1 ≤ p.panelH) && decide (p.panelH ≤ 65535) &&
  decide (p.regBase % 4 = 0) &&
  decide (1 ≤ p.memSize) && decide (p.memSize ≤ 2 ^ 32) &&
  p.refreshSeq.any PanelStep.isCmd &&
  decide (p.refreshSeq.getLast? = some .waitBusy)

end Sys2Proof
end

