-- ==== Sys2Proof/Decode.lean ====
section
/-! DEFINITION. The command word (30_encoding.md R120 to R129): the decoder, total on every word and
rejecting by name, and after it the encoder, written from the table of full words (R123). -/

namespace Sys2Proof

/-- Why a word is no command (R121). -/
inductive DecodeError where
  /-- A reserved bit, a reserved opcode, or a MODE or CODE field where the command has none. -/
  | badCommand
  /-- QUANTIZE with a mode of 5, 6 or 7. -/
  | badMode
  deriving DecidableEq, Repr

/-- OPC, bits 3:0 (R120). -/
def opcField (w : Word) : BitVec 4 := w.extractLsb' 0 4

/-- MODE, bits 6:4 (R120). -/
def modeField (w : Word) : BitVec 3 := w.extractLsb' 4 3

/-- CODE, bits 10:8 (R120). -/
def codeField (w : Word) : Code := w.extractLsb' 8 3

/-- Bit 7 and bits 31:11 are 0 (R124). -/
def reservedClear (w : Word) : Bool := w.extractLsb' 7 1 == 0 && w.extractLsb' 11 21 == 0

/-- OPC values 0x1 to 0x9 (R122); 0x0 and 0xA to 0xF are reserved (R125). -/
def opcDefined (o : BitVec 4) : Bool := decide (1 ≤ o.toNat) && decide (o.toNat ≤ 9)

/-- The command a QUANTIZE word's mode selects (R127). -/
def decodeMode (m : BitVec 3) : Except DecodeError Instr :=
  match m.toNat with
  | 0 => .ok .quantizeNone
  | 1 => .ok .quantizeFs
  | 2 => .ok .quantizeHalftone
  | 3 => .ok .quantizeOrdered
  | 4 => .ok .quantizePopart
  | _ => .error .badMode

/-- The command an opcode selects (R122). -/
def decodeOpc (o : BitVec 4) (m : BitVec 3) (c : Code) : Except DecodeError Instr :=
  match o.toNat with
  | 1 => .ok .matchRgb
  | 2 => decodeMode m
  | 3 => .ok .pack
  | 4 => .ok .panelReset
  | 5 => .ok .panelInit
  | 6 => .ok .panelFull
  | 7 => .ok .panelPartial
  | 8 => .ok (.panelBlank c)
  | 9 => .ok .panelSleep
  | _ => .error .badCommand

/-- Decode (R121), its tests in the rule's order. It reads nothing but the word (R129). -/
def decode (w : Word) : Except DecodeError Instr :=
  if !reservedClear w then .error .badCommand
  else if !opcDefined (opcField w) then .error .badCommand
  else if opcField w != 2 && modeField w != 0 then .error .badCommand
  else if opcField w != 8 && codeField w != 0 then .error .badCommand
  else decodeOpc (opcField w) (modeField w) (codeField w)

/-- The word of a command (R123). -/
def encode : Instr → Word
  | .matchRgb => 0x00000001#32
  | .quantizeNone => 0x00000002#32
  | .quantizeFs => 0x00000012#32
  | .quantizeHalftone => 0x00000022#32
  | .quantizeOrdered => 0x00000032#32
  | .quantizePopart => 0x00000042#32
  | .pack => 0x00000003#32
  | .panelReset => 0x00000004#32
  | .panelInit => 0x00000005#32
  | .panelFull => 0x00000006#32
  | .panelPartial => 0x00000007#32
  | .panelBlank c => 0x00000008#32 ||| (c.zeroExtend 32 <<< 8)
  | .panelSleep => 0x00000009#32

/-- The instruction the decoder reads from a table word: one 32-bit word, bit 0 the least
significant, as the host stores it to CMD (R120, R137). -/
def decodeTableWord (nbits w : Nat) : Option Instr :=
  let v := w % 2 ^ nbits
  if v < 2 ^ 32 then (decode (BitVec.ofNat 32 v)).toOption else none

end Sys2Proof
end

