-- ==== Sys2Proof/Machine/Defaults.lean ====
section
/-! DEFINITION. The values the spec decides for an engine's parameters (00_scope.md R12): the palette
triples, the resolution and the default step lists. The OPEN parameters come from Config. -/

namespace Sys2Proof.Machine

/-- A triple of bytes. -/
def rgbByte (r g b : Byte) : Chans Byte := { r := r, g := g, b := b }

/-- The palette ROM's triples (10_state.md R50). -/
def defaultPalette : Palette where
  black := rgbByte 0 0 0
  white := rgbByte 255 255 255
  yellow := rgbByte 255 255 0
  red := rgbByte 255 0 0
  blue := rgbByte 0 0 255
  green := rgbByte 0 255 0

/-- REFRESH_SEQ's default: power on, refresh, power off (43_panel.md R262). -/
def defaultRefreshSeq : List PanelStep :=
  [.cmd 0x04, .waitBusy, .cmd 0x12, .data 0x00, .waitBusy, .cmd 0x02, .data 0x00, .waitBusy]

/-- SLEEP_SEQ's default: deep sleep with its check byte (R262). -/
def defaultSleepSeq : List PanelStep := [.cmd 0x07, .data 0xA5]

/-- The parameters of the engine after reset: the decided values and defaults of 00_scope.md R12, and
for each OPEN parameter its free value of Config (assumption logs 1 and 2). -/
def defaultParams : Params where
  panelW := 800
  panelH := 480
  regBase := 4 * Config.regBaseWord
  memSize := Config.memSizeLessOne.toNat + 1
  palette := defaultPalette
  initSeq := Config.initSeq
  refreshSeq := defaultRefreshSeq
  sleepSeq := defaultSleepSeq
  cmdDataStart := 0x10
  cmdPtlWindow := Config.cmdPtlWindow
  busyActive := Config.busyActive
  tRstH1 := Config.tRstH1
  tRstL := Config.tRstL
  tRstH2 := Config.tRstH2
  pollInterval := Config.pollInterval

/-- The length of a named duration (R12). No rule reads it (R371, R372): the model gives a delay no
time, and this function is for a claim about time that a reader may add. -/
def delayLength (p : Params) : Delay → Nat
  | .rstH1 => p.tRstH1
  | .rstL => p.tRstL
  | .rstH2 => p.tRstH2
  | .pollInterval => p.pollInterval

end Sys2Proof.Machine
end

