-- ==== Sys2Proof/Machine/State.lean ====
section
/-! DEFINITION. The state of the machine as plain data: the engine's registers and internal state
(10_state.md), data memory (20_memory.md), what the environment still has to say (host accesses,
turns, busy levels) and what it has seen (bus trace, host accesses). INVENTORY.md lists every field. -/

namespace Sys2Proof.Machine

/-- Data memory (20_memory.md R81) in its one canonical form: see `Memory.wf`. An unlisted address
reads 0x00 (assumption log 3). -/
abbrev Memory := List Host.Cell

/-- Addresses strictly rise, and no entry holds what an unlisted address reads as. -/
abbrev Memory.wf (m : Memory) : Prop :=
  m.Pairwise (fun p q => p.1 < q.1) ∧ ∀ p ∈ m, p.2 ≠ 0#8

/-- The panel state (10_state.md R40); the values 6 and 7 of PSTATE are never held. -/
inductive PState where
  | uninitialized
  | resetting
  | initialized
  | transmitting
  | refreshing
  | sleeping
  deriving DecidableEq, Repr

/-- STATUS.ERRCLASS (10_state.md R39). -/
inductive ErrClass where
  | noError
  | input
  | protocol
  | timeout
  deriving DecidableEq, Repr

/-- STATUS.ERRCODE by name (60_exceptions.md R312): "No other value is ever written." -/
inductive ErrCode where
  | noError
  | badCommand
  | badMode
  | zeroDim
  | badIndex
  | memRange
  | overlap
  | badState
  | badWindow
  | badLength
  | busyTimeout
  deriving DecidableEq, Repr

/-- The accepted command word and its latched operands, `op` (10_state.md R55, R61). -/
structure Op where
  word : Word
  imgDim : Word
  srcAddr : Word
  dstAddr : Word
  winXY : Word
  winWH : Word
  matchRgb : BitVec 24
  bufLen : Word
  busyTimeout : Word
  deriving DecidableEq, Repr

/-- `seq` (10_state.md R55): where the sequencer stands in the running command. A position names the
NEXT engine step; loop positions carry the loop index, step-list positions the rest of the list. -/
inductive Seq where
  /-- No command runs. -/
  | idle
  /-- Set up the working values of R58 and R59. -/
  | setup
  /-- Halftone and pop-art: gather cell or tile `k`. -/
  | tally (k : Nat)
  /-- QUANTIZE: write the grid byte of pixel `k`, in row-major order. -/
  | pixel (k : Nat)
  /-- PACK and the display commands: validate byte `k`. -/
  | check (k : Nat)
  /-- PACK: write FrameBuffer byte `k`. -/
  | packByte (k : Nat)
  /-- PANEL_RESET: event `k` of its sequence. -/
  | resetLine (k : Nat)
  /-- The transfer commands: PSTATE becomes Transmitting. -/
  | transmit
  /-- The transfer commands: event `k` of the frames before the pixel data. -/
  | header (k : Nat)
  /-- The transfer commands: send data byte `k`. -/
  | data (k : Nat)
  /-- The transfer commands: PSTATE becomes Refreshing (43_panel.md R265). -/
  | refresh
  /-- Run the rest of a step list (R255). -/
  | steps (todo : List PanelStep)
  /-- In a busy-wait (R256): read the busy line; `todo` follows the wait. -/
  | poll (todo : List PanelStep)
  /-- In a busy-wait, after a busy reading: time out, or delay. -/
  | polled (todo : List PanelStep)
  /-- The command's last step: completion (10_state.md R62). -/
  | finish
  deriving DecidableEq, Repr

/-- The Floyd-Steinberg accumulators (10_state.md R58), in sixteenths of a channel step; each list
holds the elements 0 .. IMG_W+1. -/
structure FsAcc where
  cur : Chans (List Int)
  nxt : Chans (List Int)
  deriving DecidableEq, Repr

/-- An event of the bus trace (00_scope.md R19). -/
inductive BusEvent where
  | cmd (b : Byte)
  | data (b : Byte)
  | rst (l : Level)
  | poll (l : Level)
  | delay (d : Delay)
  deriving DecidableEq, Repr

/-- An access of the host (or the platform's reset), still to come. Register offsets are relative to
REG_BASE (30_encoding.md R132, R135), `bytes` is the width of the access in bytes (10_state.md R33). -/
inductive HostOp where
  | store (off bytes : Nat) (v : Word)
  | load (off bytes : Nat)
  /-- The loop of R133: load STATUS, repeat while BUSY is 1. -/
  | wait
  | memStore (a : Nat) (b : Byte)
  | memLoad (a : Nat)
  /-- Engine reset (70_reset_and_hazards.md R350), delivered by the platform. -/
  | powerCycle
  deriving DecidableEq, Repr

/-- An access the host has made, with the value a load returned (R132, R135). -/
inductive HostEvent where
  | stored (off : Nat) (v : Word)
  | loaded (off : Nat) (v : Word)
  | memStored (a : Nat) (b : Byte)
  | memLoaded (a : Nat) (b : Byte)
  | powerCycled
  deriving DecidableEq, Repr

/-- Who can take a step: the host (with the platform) or the engine (00_scope.md R10). -/
inductive Agent where
  | host
  | engine
  deriving DecidableEq, Repr

/-- Why the machine stops. -/
inductive Fault where
  /-- Raised by a host access to data memory, and by the engine's port, for a byte at or above MEM_SIZE:
  "A byte address `a` is addressable iff `0 ≤ a < MEM_SIZE`" (R81). Safe: the run stops. The engine's
  side is reached from no state that satisfies the invariant of Safety.lean. -/
  | noSuchByte (a : Nat)
  /-- Raised by the engine when BUSY is 1 and `seq` is no position of the running command. Safe: no state
  that satisfies the invariant of Safety.lean reaches it (assumption log 17). -/
  | strayPosition
  deriving DecidableEq, Repr

/-- Why the model gives the host no step. -/
inductive Refusal where
  /-- Raised by an arm of exec for a command that has no meaning yet: none does. Safe. -/
  | notModelled (mnemonic : String)
  /-- Raised by a host register access that is not an aligned 32-bit access: "A model refuses it: the
  host agent has no step for it" (10_state.md R33). Safe. -/
  | registerAccess (off bytes : Nat)
  /-- Raised by a host register access at or beyond byte 256 of the window, which is no register of this
  engine (R31). Safe. -/
  | outsideWindow (off : Nat)
  /-- Raised by a host store to a byte of a running command's source or destination range
  (70_reset_and_hazards.md R362: "A model gives the host no step for such a store"). Safe. -/
  | storeToRunningRange (a : Nat)
  deriving DecidableEq, Repr

/-- The machine's state. -/
structure State where
  -- the engine's parameters, which no step changes
  par : Params
  -- data memory
  mem : Memory
  -- STATUS (10_state.md R35)
  busy : Bool
  done : Bool
  err : Bool
  errClass : ErrClass
  pstate : PState
  dropped : Bool
  errCode : ErrCode
  -- the other registers (R44 to R49, R51 to R53)
  imgDim : Word
  srcAddr : Word
  dstAddr : Word
  winXY : Word
  winWH : Word
  matchRgb : BitVec 24
  result : Word
  bufLen : Word
  busyTimeout : Word
  -- internal state (R55)
  op : Op
  seq : Seq
  rstOut : Level
  fs : FsAcc
  cellSums : List Nat
  tileVotes : List (PerInk Nat)
  polls : Nat
  -- the model's own: PSTATE and data memory at accept (assumption log 10), and the free-value counter
  acceptPState : PState
  acceptMem : Memory
  free : Nat
  -- inputs still to come, next first
  host : List HostOp
  turns : List Agent
  levels : List Level
  -- what has been seen, newest first
  trace : List BusEvent
  accesses : List HostEvent
  deriving DecidableEq, Repr

/-- `op` with nothing latched (assumption log 9). -/
def Op.empty : Op where
  word := 0
  imgDim := 0
  srcAddr := 0
  dstAddr := 0
  winXY := 0
  winWH := 0
  matchRgb := 0
  bufLen := 0
  busyTimeout := 0

/-- Accumulators with no element (assumption log 9). -/
def FsAcc.empty : FsAcc where
  cur := { r := [], g := [], b := [] }
  nxt := { r := [], g := [], b := [] }

/-- The machine after engine reset (10_state.md R63, 70_reset_and_hazards.md R350), before any input
is given. -/
def State.reset : State where
  par := defaultParams
  mem := []
  busy := false
  done := false
  err := false
  errClass := .noError
  pstate := .uninitialized
  dropped := false
  errCode := .noError
  imgDim := 0
  srcAddr := 0
  dstAddr := 0
  winXY := 0
  winWH := 0
  matchRgb := 0
  result := 0
  bufLen := 0
  busyTimeout := 0
  op := .empty
  seq := .idle
  rstOut := true
  fs := .empty
  cellSums := []
  tileVotes := []
  polls := 0
  acceptPState := .uninitialized
  acceptMem := []
  free := 0
  host := []
  turns := []
  levels := []
  trace := []
  accesses := []

end Sys2Proof.Machine
end

