-- ==== Sys2Proof/Machine/Flags.lean ====
section
/-! DEFINITION. STATUS: the encodings of its fields, the whole word, and the one function for each way
a command changes the flags (10_state.md R35 to R41, R61, R62; 60_exceptions.md R311, R315). -/

namespace Sys2Proof.Machine

/-- A flag as one bit. -/
def flagBit (b : Bool) : BitVec 1 := BitVec.ofBool b

/-- PSTATE's encoding (10_state.md R40). -/
def PState.bits : PState → BitVec 3
  | .uninitialized => 0
  | .resetting => 1
  | .initialized => 2
  | .transmitting => 3
  | .refreshing => 4
  | .sleeping => 5

/-- ERRCLASS's encoding (R39, R311). -/
def ErrClass.bits : ErrClass → BitVec 2
  | .noError => 0
  | .input => 1
  | .protocol => 2
  | .timeout => 3

/-- ERRCODE's encoding (60_exceptions.md R312). -/
def ErrCode.bits : ErrCode → BitVec 8
  | .noError => 0x00
  | .badCommand => 0x01
  | .badMode => 0x02
  | .zeroDim => 0x03
  | .badIndex => 0x04
  | .memRange => 0x05
  | .overlap => 0x06
  | .badState => 0x10
  | .badWindow => 0x11
  | .badLength => 0x12
  | .busyTimeout => 0x20

/-- The class of a code (R311, R312). -/
def ErrCode.cls : ErrCode → ErrClass
  | .noError => .noError
  | .badCommand | .badMode | .zeroDim | .badIndex | .memRange | .overlap => .input
  | .badState | .badWindow | .badLength => .protocol
  | .busyTimeout => .timeout

/-- The STATUS word (R35): ERRCODE in 23:16, DROPPED 11, PSTATE 10:8, ERRCLASS 4:3, ERR 2, DONE 1,
BUSY 0, every reserved bit 0. -/
def statusWord (s : State) : Word :=
  0#8 ++ s.errCode.bits ++ 0#4 ++ flagBit s.dropped ++ s.pstate.bits ++ 0#3 ++ s.errClass.bits ++
    flagBit s.err ++ flagBit s.done ++ flagBit s.busy

/-- A host write to STATUS changes only DROPPED, which bit 11 clears (R35, R41). -/
def writeStatus (v : Word) (s : State) : State :=
  if v.getLsbD 11 then { s with dropped := false } else s

/-- What accept does to the flags (R61): DONE, ERR, ERRCLASS and ERRCODE are cleared. -/
def clearFlags (s : State) : State :=
  { s with done := false, err := false, errClass := .noError, errCode := .noError }

/-- What an error does to STATUS (60_exceptions.md R315), PSTATE apart. -/
def latchError (e : ErrCode) (s : State) : State :=
  { s with err := true, errClass := e.cls, errCode := e, done := false, busy := false }

/-- What completion without error does to STATUS (10_state.md R62). -/
def latchDone (s : State) : State := { s with done := true, busy := false }

end Sys2Proof.Machine
end

