-- ==== Sys2Proof/Machine/Operands.lean ====
section
/-! DEFINITION. The operand forms (30_encoding.md R126): the fields of the latched registers, each
zero-extended, the sizes computed from them, and the ranges of data memory a command uses
(20_memory.md R89). Everything is on mathematical integers, with no wrap at 2^32. -/

namespace Sys2Proof.Machine

/-- `ceil(a / b)` (00_scope.md R16). -/
def ceilDiv (a b : Nat) : Nat := (a + b - 1) / b

/-- Bits 15:0 of a register. -/
def lowHalf (v : Word) : Nat := (v.extractLsb' 0 16).toNat

/-- Bits 31:16 of a register. -/
def highHalf (v : Word) : Nat := (v.extractLsb' 16 16).toNat

/-- IMG_W (10_state.md R44). -/
def Op.imgW (o : Op) : Nat := lowHalf o.imgDim

/-- IMG_H (R44). -/
def Op.imgH (o : Op) : Nat := highHalf o.imgDim

/-- SRC_ADDR as a byte address (R45). -/
def Op.src (o : Op) : Nat := o.srcAddr.toNat

/-- DST_ADDR as a byte address (R46). -/
def Op.dst (o : Op) : Nat := o.dstAddr.toNat

/-- WIN_X (R47). -/
def Op.winX (o : Op) : Nat := lowHalf o.winXY

/-- WIN_Y (R47). -/
def Op.winY (o : Op) : Nat := highHalf o.winXY

/-- WIN_W: the window's width, or `cols` (R48). -/
def Op.winW (o : Op) : Nat := lowHalf o.winWH

/-- WIN_H: the window's height, or `rows` (R48). -/
def Op.winH (o : Op) : Nat := highHalf o.winWH

/-- BUF_LEN as a length in bytes (R52). -/
def Op.len (o : Op) : Nat := o.bufLen.toNat

/-- BUSY_TIMEOUT as a count of polls (R53). -/
def Op.timeout (o : Op) : Nat := o.busyTimeout.toNat

/-- MATCH_RGB's channels: R in 7:0, G in 15:8, B in 23:16 (R49). -/
def Op.rgb (o : Op) : Chans Nat where
  r := (o.matchRgb.extractLsb' 0 8).toNat
  g := (o.matchRgb.extractLsb' 8 8).toNat
  b := (o.matchRgb.extractLsb' 16 8).toNat

/-- Bytes of the Image: 3·W·H (20_memory.md R86). -/
def Op.imageBytes (o : Op) : Nat := 3 * (o.imgW * o.imgH)

/-- Bytes of the IndexGrid: W·H (R87). -/
def Op.gridBytes (o : Op) : Nat := o.imgW * o.imgH

/-- Bytes of one FrameBuffer row: `ceil(W/2)` (42_packer.md R233). -/
def Op.stride (o : Op) : Nat := ceilDiv o.imgW 2

/-- Bytes of the FrameBuffer: H·ceil(W/2) (R233). -/
def Op.frameBytes (o : Op) : Nat := o.imgH * o.stride

/-- Bytes a window or a blank area of the latched size needs: h·ceil(w/2) (43_panel.md R282, R288). -/
def Op.windowBytes (o : Op) : Nat := o.winH * ceilDiv o.winW 2

/-- Bytes of a full panel's FrameBuffer (43_panel.md R276). -/
def panelBytes (p : Params) : Nat := p.panelH * ceilDiv p.panelW 2

/-- Length of a command's source range, which starts at SRC_ADDR (20_memory.md R89, R82). -/
def srcLen (i : Instr) (o : Op) : Nat :=
  match i with
  | .quantizeNone | .quantizeFs | .quantizeHalftone | .quantizeOrdered | .quantizePopart => o.imageBytes
  | .pack => o.gridBytes
  | .panelFull | .panelPartial => o.len
  | .matchRgb | .panelReset | .panelInit | .panelBlank _ | .panelSleep => 0

/-- Length of a command's destination range, which starts at DST_ADDR (R89, R82). -/
def dstLen (i : Instr) (o : Op) : Nat :=
  match i with
  | .quantizeNone | .quantizeFs | .quantizeHalftone | .quantizeOrdered | .quantizePopart => o.gridBytes
  | .pack => o.frameBytes
  | .matchRgb | .panelReset | .panelInit | .panelFull | .panelPartial | .panelBlank _ | .panelSleep => 0

/-- Is `a` in the range `[start, start + len)`? -/
def inRange (start len a : Nat) : Bool := decide (start ≤ a) && decide (a < start + len)

/-- Is `a` in the command's source range? -/
def inSrc (i : Instr) (o : Op) (a : Nat) : Bool := inRange o.src (srcLen i o) a

/-- Is `a` in the command's destination range? -/
def inDst (i : Instr) (o : Op) (a : Nat) : Bool := inRange o.dst (dstLen i o) a

/-- The range check (R95): a range with no byte always passes. -/
def rangeFits (start len memSize : Nat) : Bool := decide (len = 0) || decide (start + len ≤ memSize)

/-- Both ranges of a command lie in data memory (R95). -/
def rangesFit (i : Instr) (o : Op) (memSize : Nat) : Bool :=
  rangeFits o.src (srcLen i o) memSize && rangeFits o.dst (dstLen i o) memSize

/-- The overlap check (R96): some byte lies in both ranges. -/
def rangesOverlap (i : Instr) (o : Op) : Bool :=
  decide (0 < srcLen i o) && decide (0 < dstLen i o) &&
    decide (o.src < o.dst + dstLen i o) && decide (o.dst < o.src + srcLen i o)

end Sys2Proof.Machine
end

