-- ==== Sys2Proof/Machine/Ops.lean ====
section
/-! DEFINITION. The named operations the meanings share: data memory, the panel bus, the busy line,
accepting a command (10_state.md R61), completing it (R62), and taking an error (60_exceptions.md
R315, R318), which is the engine's only form of exception. -/

namespace Sys2Proof.Machine

/-! Data memory. -/

/-- The byte at an address; an address that is not listed reads 0x00 (assumption log 3). -/
def Memory.read (m : Memory) (a : Nat) : Byte :=
  match m with
  | [] => 0
  | c :: rest => if c.1 = a then c.2 else Memory.read rest a

/-- Write a byte, keeping the canonical form. -/
def Memory.write (m : Memory) (a : Nat) (v : Byte) : Memory :=
  match m with
  | [] => if v = 0#8 then [] else [(a, v)]
  | c :: rest =>
    if a < c.1 then (if v = 0#8 then c :: rest else (a, v) :: c :: rest)
    else if c.1 = a then (if v = 0#8 then rest else (a, v) :: rest)
    else c :: Memory.write rest a v

/-! The panel bus. -/

/-- Issue one event on the bus (00_scope.md R19). -/
def emit (e : BusEvent) (s : State) : State := { s with trace := e :: s.trace }

/-- The bus trace in the order the events happened (R19, R140). -/
def busTrace (s : State) : List BusEvent := s.trace.reverse

/-- `setResetLine(l)` and what RST_OUT then holds (43_panel.md R266, 10_state.md R57). -/
def setResetLine (l : Level) (s : State) : State := emit (.rst l) { s with rstOut := l }

/-- The level the panel agent answers: the next pending level, or a free value (R253, assumption log 5). -/
def busyLevel (s : State) : Level :=
  match s.levels with
  | [] => Config.freeLevel s.free
  | l :: _ => l

/-- `readBusyLine()` (R251): one answer is used up, and the poll is on the trace. -/
def readBusyLine (s : State) : State :=
  emit (.poll (busyLevel s))
    (match s.levels with
     | [] => { s with free := s.free + 1 }
     | _ :: rest => { s with levels := rest })

/-! Accept, completion, errors. -/

/-- The first of a list of checks that fails, in the list's order (60_exceptions.md R313): "the first
that fails" is raised and "Later checks are not evaluated." -/
def firstFailing (checks : List (Bool × ErrCode)) : Option ErrCode :=
  match checks with
  | [] => none
  | (true, e) :: _ => some e
  | (false, _) :: rest => firstFailing rest

/-- The word and the operands that accept latches: the registers as they stand (10_state.md R61). -/
def operandsOf (w : Word) (s : State) : Op where
  word := w
  imgDim := s.imgDim
  srcAddr := s.srcAddr
  dstAddr := s.dstAddr
  winXY := s.winXY
  winWH := s.winWH
  matchRgb := s.matchRgb
  bufLen := s.bufLen
  busyTimeout := s.busyTimeout

/-- Latch the word and the operands (R61); PSTATE and data memory at accept are kept for R318, R100 and
R352 (assumption log 10). -/
def latch (w : Word) (s : State) : State :=
  { s with op := operandsOf w s, acceptPState := s.pstate, acceptMem := s.mem }

/-- TAKE AN ERROR, `raise C(E)` (00_scope.md R20, 60_exceptions.md R315): STATUS gets the class and the
code, BUSY and DONE are 0, PSTATE is what it was at accept (R318), and the command is over. -/
def raise (e : ErrCode) (s : State) : State :=
  { latchError e s with pstate := s.acceptPState, seq := .idle }

/-- Completion without error (10_state.md R62): RESULT where the command writes one (R51), DONE, BUSY. -/
def complete (r : Option Nat) (s : State) : State :=
  { latchDone s with
    result := match r with
      | some n => BitVec.ofNat 32 n
      | none => s.result
    seq := .idle }

/-- The engine starts the command's body at a position (R61: "BUSY <- 1; the engine agent runs the
command body"). -/
def launch (p : Seq) (s : State) : State := { s with busy := true, seq := p }

/-- A word presented to the engine (R61): dropped while BUSY is 1, else the flags are cleared, the
operands latched, and `body` goes on from there. -/
def present (w : Word) (body : State → State) (s : State) : State :=
  if s.busy then { s with dropped := true } else body (latch w (clearFlags s))

/-- Accept of a legal command (R61): its accept-time checks in their order, then its start. -/
def accept (i : Instr) (checks : State → List (Bool × ErrCode)) (start : State → State) (s : State) : State :=
  present (encode i)
    (fun t =>
      match firstFailing (checks t) with
      | some e => raise e t
      | none => start t) s

/-- An illegal word (30_encoding.md R121): the decode error is the first check of every command. -/
def rejectWord (w : Word) (e : DecodeError) (s : State) : State :=
  present w
    (fun t =>
      match e with
      | .badCommand => raise .badCommand t
      | .badMode => raise .badMode t) s

/-- The panel-state check (43_panel.md R259, 60_exceptions.md R313 step 2): PSTATE must be `p`. -/
def stateCheck (p : PState) (s : State) : Bool × ErrCode := (decide (s.pstate ≠ p), .badState)

/-- The memory-range check (R313 step 4, 20_memory.md R95). -/
def rangeCheck (i : Instr) (s : State) : Bool × ErrCode := (!rangesFit i s.op s.par.memSize, .memRange)

/-- The overlap check (R313 step 5, 20_memory.md R96). -/
def overlapCheck (i : Instr) (s : State) : Bool × ErrCode := (rangesOverlap i s.op, .overlap)

/-- The zero-dimension check (R313 step 3, 41_dither.md R180, 42_packer.md R230). -/
def dimCheck (s : State) : Bool × ErrCode := (decide (s.op.imgW = 0) || decide (s.op.imgH = 0), .zeroDim)

end Sys2Proof.Machine
end

