-- ==== Sys2Proof/Machine/Palette.lean ====
section
/-! DEFINITION. PaletteMatcher and the MATCH command (40_palette.md). -/

namespace Sys2Proof.Machine

/-- The palette code of an entry (10_state.md R50; the source's own numbers). -/
def inkCode : Ink → Code
  | .black => 0
  | .white => 1
  | .yellow => 2
  | .red => 3
  | .blue => 5
  | .green => 6

/-- The entry's index in declaration order (R50). -/
def inkIndex : Ink → Nat
  | .black => 0
  | .white => 1
  | .yellow => 2
  | .red => 3
  | .blue => 4
  | .green => 5

/-- An entry's value in a table with one value for each entry. -/
def inkGet {α : Type} (t : PerInk α) : Ink → α
  | .black => t.black
  | .white => t.white
  | .yellow => t.yellow
  | .red => t.red
  | .blue => t.blue
  | .green => t.green

/-- Apply a function to each channel. -/
def chanMap {α β : Type} (f : α → β) (c : Chans α) : Chans β := { r := f c.r, g := f c.g, b := f c.b }

/-- Apply a function to two triples, channel by channel. -/
def chanZip {α β γ : Type} (f : α → β → γ) (c : Chans α) (d : Chans β) : Chans γ :=
  { r := f c.r d.r, g := f c.g d.g, b := f c.b d.b }

/-- A colour of channel values 0..255 as integers (00_scope.md R16). -/
def chanInt (c : Chans Nat) : Chans Int := chanMap (fun (n : Nat) => (n : Int)) c

/-- An entry's RGB triple as integers. -/
def inkRgb (pal : Palette) (i : Ink) : Chans Int := chanMap (fun (v : Byte) => (v.toNat : Int)) (inkGet pal i)

/-- The squared Euclidean distance, unweighted (40_palette.md R161). -/
def inkDist (pal : Palette) (c : Chans Int) (i : Ink) : Int :=
  (c.r - (inkRgb pal i).r) ^ 2 + (c.g - (inkRgb pal i).g) ^ 2 + (c.b - (inkRgb pal i).b) ^ 2

/-- The entry with the smallest value, the earlier one where two are equal: the loop of R162 over the
entries 1 to 5, starting from entry 0. -/
def leastInk (f : Ink → Int) : Ink :=
  [Ink.white, .yellow, .red, .blue, .green].foldl (fun best i => if f i < f best then i else best) .black

/-- `match(r, g, b)` (R162): the nearest entry, ties by declaration order. -/
def nearest (pal : Palette) (c : Chans Int) : Ink := leastInk (inkDist pal c)

/-- MATCH's effect (R166): RESULT gets the code, DONE is set; BUSY is never set. -/
def performMatch (s : State) : State :=
  complete (some (inkCode (nearest s.par.palette (chanInt s.op.rgb))).toNat) s

/-- MATCH (R166), performed entirely in the accept step. It has no check but the decode. -/
def execMatch (s : State) : Host.Outcome State Fault Refusal :=
  .next (accept .matchRgb (fun _ => []) performMatch s)

end Sys2Proof.Machine
end

