-- ==== Sys2Proof/Machine/Pack.lean ====
section
/-! DEFINITION. FrameBufferPacker: PACK and the unpacking function (42_packer.md). -/

namespace Sys2Proof.Machine

/-- `valid_byte(b)` (R231): bits 7:3 are 0 and bits 2:0 are a palette code. -/
def validByte (b : Byte) : Bool :=
  b == 0x00 || b == 0x01 || b == 0x02 || b == 0x03 || b == 0x05 || b == 0x06

/-- Two nibbles as a byte, the earlier pixel high (R232). -/
def nibbles (hi lo : BitVec 4) : Byte := hi ++ lo

/-- A grid byte's low four bits (R230). -/
def lowNibble (b : Byte) : BitVec 4 := b.extractLsb' 0 4

/-- A byte's high four bits. -/
def highNibble (b : Byte) : BitVec 4 := b.extractLsb' 4 4

/-- The padding nibble of an odd-width row, PAD (R234). -/
def padNibble : BitVec 4 := 0x0

/-- FrameBuffer byte k of row y, packed from the grid `g x y` of width `w` (R230, R232, R234). -/
def packedByte (g : Nat → Nat → Byte) (w y k : Nat) : Byte :=
  nibbles (lowNibble (g (2 * k) y)) (if 2 * k + 1 < w then lowNibble (g (2 * k + 1) y) else padNibble)

/-- The element of an IndexGrid of width `w` at byte address `a` (20_memory.md R87). -/
def gridAt (m : Memory) (a w x y : Nat) : Byte := m.read (a + (y * w + x))

/-- `unpack(B, W, H)[y][x]` (R236), a specification function and no command; `bytes` gives the
FrameBuffer's bytes and `w` the width. The rule defines it only where every nibble it reads is a palette code;
on any other nibble this function gives the nibble itself (DESIGN CHOICE, assumption log 21). -/
def unpackCode (bytes : Nat → Byte) (w x y : Nat) : BitVec 4 :=
  if x % 2 = 0 then highNibble (bytes (y * ceilDiv w 2 + x / 2))
  else lowNibble (bytes (y * ceilDiv w 2 + (x - 1) / 2))

/-- PACK's accept-time checks after the decode, in order (R230, 60_exceptions.md R313). -/
def packChecks (s : State) : List (Bool × ErrCode) := [dimCheck s, rangeCheck .pack s, overlapCheck .pack s]

/-- PACK (R230). -/
def execPack (s : State) : Host.Outcome State Fault Refusal :=
  .next (accept .pack packChecks (launch (.check 0)) s)

/-- The validation pass at grid byte `k` (R230): it reads only. -/
def packCheckStep (k : Nat) (s : State) : State :=
  if k < s.op.gridBytes then
    if validByte (s.mem.read (s.op.src + k)) then { s with seq := .check (k + 1) } else raise .badIndex s
  else { s with seq := .packByte 0 }

/-- The write pass at FrameBuffer byte `k`, with y = k div L and column pair k mod L (R230, R235). -/
def packByteStep (k : Nat) (s : State) : State :=
  if k < s.op.frameBytes then
    { s with
      mem := s.mem.write (s.op.dst + (k / s.op.stride * s.op.stride + k % s.op.stride))
        (packedByte (gridAt s.mem s.op.src s.op.imgW) s.op.imgW (k / s.op.stride) (k % s.op.stride))
      seq := .packByte (k + 1) }
  else complete (some s.op.frameBytes) s

def bodyPack (s : State) : Host.Outcome State Fault Refusal :=
  match s.seq with
  | .check k => .next (packCheckStep k s)
  | .packByte k => .next (packByteStep k s)
  | _ => .fault .strayPosition

end Sys2Proof.Machine
end

