-- ==== Sys2Proof/Machine/Panel.lean ====
section
/-! DEFINITION. PanelProtocol and the six panel commands (43_panel.md): for each the accept of its
word and the body, one bus primitive, one PSTATE change or one completion a step (D53). -/

namespace Sys2Proof.Machine

/-! The busy-wait and the step lists (R255, R256). -/

/-- `polls ≥ k` for a bound k ≥ 1 (R256). -/
def pollsExhausted (s : State) : Bool := decide (s.op.timeout ≠ 0) && decide (s.op.timeout ≤ s.polls)

/-- The next step of a step list (R255). A `WaitBusy` starts a busy-wait with `polls` 0 (R256); after
the last step PSTATE becomes `after` (R265, R270, R294). -/
def listStep (after : PState) (todo : List PanelStep) (s : State) : State :=
  match todo with
  | [] => { s with pstate := after, seq := .finish }
  | .cmd b :: rest => emit (.cmd b) { s with seq := .steps rest }
  | .data b :: rest => emit (.data b) { s with seq := .steps rest }
  | .waitBusy :: rest => { s with polls := 0, seq := .poll rest }

/-- One `readBusyLine()` of a busy-wait (R256): an idle level ends the wait. -/
def pollStep (todo : List PanelStep) (s : State) : State :=
  if busyLevel s = s.par.busyActive then
    { readBusyLine s with polls := s.polls + 1, seq := .polled todo }
  else { readBusyLine s with seq := .steps todo }

/-- After a busy reading (R256): HardwareTimeoutError at the bound, else the poll delay. -/
def polledStep (todo : List PanelStep) (s : State) : State :=
  if pollsExhausted s then raise .busyTimeout s
  else emit (.delay .pollInterval) { s with seq := .poll todo }

/-- The positions every command with a step list shares: `after` is the PSTATE the list ends in, `r`
what RESULT gets. -/
def listBody (after : PState) (r : Option Nat) (s : State) : Host.Outcome State Fault Refusal :=
  match s.seq with
  | .steps todo => .next (listStep after todo s)
  | .poll todo => .next (pollStep todo s)
  | .polled todo => .next (polledStep todo s)
  | .finish => .next (complete r s)
  | _ => .fault .strayPosition

/-! The transfer commands' shared positions (R265, R276, R282, R288). -/

/-- `valid_pair(b)` (R277): both nibbles are palette codes. -/
def validPair (b : Byte) : Bool :=
  let ok : BitVec 4 → Bool := fun n => n == 0 || n == 1 || n == 2 || n == 3 || n == 5 || n == 6
  ok (b.extractLsb' 4 4) && ok (b.extractLsb' 0 4)

/-- The validation pass of a display command at buffer byte `k` (R276, R277): no bus event yet. -/
def bufferCheckStep (k : Nat) (s : State) : State :=
  if k < s.op.len then
    if validPair (s.mem.read (s.op.src + k)) then { s with seq := .check (k + 1) } else raise .badIndex s
  else { s with seq := .transmit }

/-- Event `k` of the frames that come before the pixel data, or on to the data. -/
def headerStep (frames : List BusEvent) (k : Nat) (s : State) : State :=
  match frames[k]? with
  | some e => emit e { s with seq := .header (k + 1) }
  | none => { s with seq := .data 0 }

/-- Pixel-data byte `k` of `n`, or on to the refresh. -/
def dataStep (n : Nat) (byte : Nat → Byte) (k : Nat) (s : State) : State :=
  if k < n then emit (.data (byte k)) { s with seq := .data (k + 1) } else { s with seq := .refresh }

/-- A transfer command after its validation: PSTATE Transmitting, the frames, `n` data bytes, then
`refresh()` (R265) and PSTATE Initialized; RESULT gets `n` (10_state.md R51). -/
def transferBody (frames : List BusEvent) (n : Nat) (byte : Nat → Byte) (s : State) :
    Host.Outcome State Fault Refusal :=
  match s.seq with
  | .transmit => .next { s with pstate := .transmitting, seq := .header 0 }
  | .header k => .next (headerStep frames k s)
  | .data k => .next (dataStep n byte k s)
  | .refresh => .next { s with pstate := .refreshing, seq := .steps s.par.refreshSeq }
  | _ => listBody .initialized (some n) s

/-! PANEL_RESET (R266). -/

def execPanelReset (s : State) : Host.Outcome State Fault Refusal :=
  .next (accept .panelReset (fun _ => []) (launch (.resetLine 0)) s)

/-- Event `k` of the reset sequence: PSTATE, then high, low, high with a hold time after each (R266). -/
def resetLineStep (k : Nat) (s : State) : State :=
  let t := { s with seq := .resetLine (k + 1) }
  match k with
  | 0 => { t with pstate := .resetting }
  | 1 => setResetLine true t
  | 2 => emit (.delay .rstH1) t
  | 3 => setResetLine false t
  | 4 => emit (.delay .rstL) t
  | 5 => setResetLine true t
  | 6 => emit (.delay .rstH2) t
  | _ => complete none s

def bodyPanelReset (s : State) : Host.Outcome State Fault Refusal :=
  match s.seq with
  | .resetLine k => .next (resetLineStep k s)
  | _ => .fault .strayPosition

/-! PANEL_INIT (R270). -/

def initChecks (s : State) : List (Bool × ErrCode) := [stateCheck .resetting s]

def execPanelInit (s : State) : Host.Outcome State Fault Refusal :=
  .next (accept .panelInit initChecks (launch (.steps s.par.initSeq)) s)

def bodyPanelInit (s : State) : Host.Outcome State Fault Refusal := listBody .initialized none s

/-! PANEL_DISPLAY_FULL (R276). -/

/-- State, then length, then memory range (R276, 60_exceptions.md R313). -/
def fullChecks (s : State) : List (Bool × ErrCode) :=
  [stateCheck .initialized s, (decide (s.op.len ≠ panelBytes s.par), .badLength), rangeCheck .panelFull s]

def execPanelFull (s : State) : Host.Outcome State Fault Refusal :=
  .next (accept .panelFull fullChecks (launch (.check 0)) s)

/-- The frame that opens a pixel-data transfer: its command byte (R276). -/
def dataFrame (p : Params) : List BusEvent := [.cmd p.cmdDataStart]

/-- Buffer byte `k` (R276). -/
def bufferByte (s : State) (k : Nat) : Byte := s.mem.read (s.op.src + k)

def bodyPanelFull (s : State) : Host.Outcome State Fault Refusal :=
  match s.seq with
  | .check k => .next (bufferCheckStep k s)
  | _ => transferBody (dataFrame s.par) s.op.len (bufferByte s) s

/-! PANEL_DISPLAY_PARTIAL (R282). -/

/-- The window check (R283): not empty, and inside the panel. -/
def windowLegal (p : Params) (o : Op) : Bool :=
  decide (1 ≤ o.winW) && decide (1 ≤ o.winH) &&
    decide (o.winX + o.winW ≤ p.panelW) && decide (o.winY + o.winH ≤ p.panelH)

/-- State, then window, then length, then memory range (R282, 60_exceptions.md R313). -/
def partialChecks (s : State) : List (Bool × ErrCode) :=
  [stateCheck .initialized s, (!windowLegal s.par s.op, .badWindow),
   (decide (s.op.len ≠ s.op.windowBytes), .badLength), rangeCheck .panelPartial s]

def execPanelPartial (s : State) : Host.Outcome State Fault Refusal :=
  .next (accept .panelPartial partialChecks (launch (.check 0)) s)

/-- A 16-bit coordinate as two data bytes, high byte first (R284). -/
def coordBytes (n : Nat) : List BusEvent :=
  [.data ((BitVec.ofNat 16 n).extractLsb' 8 8), .data ((BitVec.ofNat 16 n).extractLsb' 0 8)]

/-- The window frame: start column, end column, start row, end row, both ends in the window (R282, R284). -/
def windowFrame (p : Params) (o : Op) : List BusEvent :=
  .cmd p.cmdPtlWindow ::
    (coordBytes o.winX ++ coordBytes (o.winX + o.winW - 1) ++ coordBytes o.winY ++ coordBytes (o.winY + o.winH - 1))

def bodyPanelPartial (s : State) : Host.Outcome State Fault Refusal :=
  match s.seq with
  | .check k => .next (bufferCheckStep k s)
  | _ => transferBody (windowFrame s.par s.op ++ dataFrame s.par) s.op.len (bufferByte s) s

/-! PANEL_DRAW_BLANK (R288). -/

/-- The blank area's size: 1..PANEL_W columns and 1..PANEL_H rows (R288). -/
def blankLegal (p : Params) (o : Op) : Bool :=
  decide (1 ≤ o.winW) && decide (o.winW ≤ p.panelW) && decide (1 ≤ o.winH) && decide (o.winH ≤ p.panelH)

/-- State, then code, then size (R288, 60_exceptions.md R313). -/
def blankChecks (k : Code) (s : State) : List (Bool × ErrCode) :=
  [stateCheck .initialized s, (!Code.valid k, .badIndex), (!blankLegal s.par s.op, .badWindow)]

def execPanelBlank (k : Code) (s : State) : Host.Outcome State Fault Refusal :=
  .next (accept (.panelBlank k) (blankChecks k) (launch .transmit) s)

/-- The fill byte `(k << 4) | k` (R289). -/
def fillByte (k : Code) : Byte := (k.zeroExtend 8 <<< 4) ||| k.zeroExtend 8

def bodyPanelBlank (k : Code) (s : State) : Host.Outcome State Fault Refusal :=
  transferBody (dataFrame s.par) s.op.windowBytes (fun _ => fillByte k) s

/-! PANEL_SLEEP (R294). -/

def sleepChecks (s : State) : List (Bool × ErrCode) := [stateCheck .initialized s]

def execPanelSleep (s : State) : Host.Outcome State Fault Refusal :=
  .next (accept .panelSleep sleepChecks (launch (.steps s.par.sleepSeq)) s)

def bodyPanelSleep (s : State) : Host.Outcome State Fault Refusal := listBody .sleeping none s

end Sys2Proof.Machine
end

