-- ==== Sys2Proof/Machine/Dither.lean ====
section
/-! DEFINITION. DitherEngine as arithmetic (41_dither.md): what code each mode gives each pixel, as a
function of the Image alone (R214). An image is given by its pixels, `img x y`; the engine's bodies and
the value a command "writes" (20_memory.md R100) both use these functions. -/

namespace Sys2Proof.Machine

/-- `clamp(v, lo, hi)` (00_scope.md R16). -/
def clampInt (v lo hi : Int) : Int := if v < lo then lo else if v > hi then hi else v

/-- A channel value clamped to 0..255. -/
def clampByte (v : Int) : Int := clampInt v 0 255

/-- The code of a palette entry as a grid byte (41_dither.md R183, 20_memory.md R87). -/
def codeByte (c : Code) : Byte := c.zeroExtend 8

/-- `px(x, y)` (R182) of the Image of width `w` at byte address `s`. -/
def pixelAt (m : Memory) (s w x y : Nat) : Chans Nat where
  r := (m.read (s + 3 * (y * w + x))).toNat
  g := (m.read (s + 3 * (y * w + x) + 1)).toNat
  b := (m.read (s + 3 * (y * w + x) + 2)).toNat

/-- The code of the nearest entry (R185). -/
def nearestCode (pal : Palette) (c : Chans Int) : Code := inkCode (nearest pal c)

/-! Mode None. -/

/-- Mode None's code (R185). -/
def noneCode (pal : Palette) (img : Nat → Nat → Chans Nat) (x y : Nat) : Code :=
  nearestCode pal (chanInt (img x y))

/-! Mode FloydSteinberg. -/

/-- Add to one element of an accumulator array. -/
def addAt (l : List Int) (k : Nat) (d : Int) : List Int := l.modify k (· + d)

/-- Element `k` of an accumulator array. -/
def accAt (l : List Int) (k : Nat) : Int := l.getD k 0

/-- W+2 zero elements (10_state.md R58). -/
def zeroRow (w : Nat) : List Int := List.replicate (w + 2) 0

/-- Every accumulator element 0, as before the first pixel (R190). -/
def fsZero (w : Nat) : FsAcc where
  cur := { r := zeroRow w, g := zeroRow w, b := zeroRow w }
  nxt := { r := zeroRow w, g := zeroRow w, b := zeroRow w }

/-- The adjusted channel value before the clamp: `(16·o + acc + 8) >>a 4` (R190, R192). -/
def fsAdjust (o : Nat) (acc : Int) : Int := (16 * (o : Int) + acc + 8) / 16

/-- The clamped channel value at column `x` (R190). -/
def fsValue (o : Nat) (row : List Int) (x : Nat) : Int := clampByte (fsAdjust o (accAt row (x + 1)))

/-- The clamped colour of the pixel in column `x` (R190). -/
def fsColour (o : Chans Nat) (acc : FsAcc) (x : Nat) : Chans Int :=
  chanZip (fun v row => fsValue v row x) o acc.cur

/-- The entry mode FloydSteinberg matches at column `x` (R190). -/
def fsInk (pal : Palette) (o : Chans Nat) (acc : FsAcc) (x : Nat) : Ink := nearest pal (fsColour o acc x)

/-- The error of each channel: the clamped value less the matched entry (R190, R192). -/
def fsError (pal : Palette) (o : Chans Nat) (acc : FsAcc) (x : Nat) : Chans Int :=
  chanZip (fun v p => v - p) (fsColour o acc x) (inkRgb pal (fsInk pal o acc x))

/-- Send the error on: 7/16 right, 3/16 below-left, 5/16 below, 1/16 below-right (R190). -/
def fsSpread (acc : FsAcc) (x : Nat) (e : Chans Int) : FsAcc where
  cur := chanZip (fun row v => addAt row (x + 2) (7 * v)) acc.cur e
  nxt := chanZip (fun row v => addAt (addAt (addAt row x (3 * v)) (x + 1) (5 * v)) (x + 2) (1 * v)) acc.nxt e

/-- The end of a row: the lookahead row becomes the current one (R190). -/
def fsNextRow (w : Nat) (acc : FsAcc) : FsAcc where
  cur := acc.nxt
  nxt := { r := zeroRow w, g := zeroRow w, b := zeroRow w }

/-- The accumulators after pixel `k` in row-major order, its row's end included (R190, R191). -/
def fsStep (pal : Palette) (w k : Nat) (o : Chans Nat) (acc : FsAcc) : FsAcc :=
  let spread := fsSpread acc (k % w) (fsError pal o acc (k % w))
  if k % w + 1 = w then fsNextRow w spread else spread

/-- The accumulators before pixel `k`, from zero (R190). -/
def fsBefore (pal : Palette) (img : Nat → Nat → Chans Nat) (w : Nat) : Nat → FsAcc
  | 0 => fsZero w
  | k + 1 => fsStep pal w k (img (k % w) (k / w)) (fsBefore pal img w k)

/-- Mode FloydSteinberg's code of pixel `k` in row-major order (R190). -/
def fsCode (pal : Palette) (img : Nat → Nat → Chans Nat) (w k : Nat) : Code :=
  inkCode (fsInk pal (img (k % w) (k / w)) (fsBefore pal img w k) (k % w))

/-! Mode Ordered. -/

/-- The 4 × 4 Bayer index matrix, BAYER4[row][column] (R196). -/
def bayer4 (row col : Nat) : Nat :=
  match row, col with
  | 0, 0 => 0 | 0, 1 => 8 | 0, 2 => 2 | 0, 3 => 10
  | 1, 0 => 12 | 1, 1 => 4 | 1, 2 => 14 | 1, 3 => 6
  | 2, 0 => 3 | 2, 1 => 11 | 2, 2 => 1 | 2, 3 => 9
  | 3, 0 => 15 | 3, 1 => 7 | 3, 2 => 13 | 3, 3 => 5
  | _, _ => 0

/-- The offset of the pixel (x, y): `16·t − 120` (R196, R197). -/
def orderedOffset (x y : Nat) : Int := 16 * (bayer4 (y % 4) (x % 4) : Int) - 120

/-- Mode Ordered's code (R196). -/
def orderedCode (pal : Palette) (img : Nat → Nat → Chans Nat) (x y : Nat) : Code :=
  nearestCode pal (chanMap (fun (v : Nat) => clampByte ((v : Int) + orderedOffset x y)) (img x y))

/-! Cells and tiles. -/

/-- The pixels of block (i, j) of `n` × `n` pixels that lie in the W × H image, in raster order
(R200: columns `ni .. min(ni+n−1, W−1)`, rows `nj .. min(nj+n−1, H−1)`; R210). -/
def blockPixels (n w h i j : Nat) : List (Nat × Nat) :=
  ((List.range n).flatMap fun dy => (List.range n).map fun dx => (n * i + dx, n * j + dy)).filter
    fun p => decide (p.1 < w) && decide (p.2 < h)

/-- Blocks across the image. -/
def blockCols (n w : Nat) : Nat := ceilDiv w n

/-- Blocks in the image. -/
def blockCount (n w h : Nat) : Nat := blockCols n w * ceilDiv h n

/-- The pixels of block `k`, blocks counted in row-major order. -/
def blockOf (n w h k : Nat) : List (Nat × Nat) := blockPixels n w h (k % blockCols n w) (k / blockCols n w)

/-- The number of the block that holds the pixel (x, y). -/
def blockIndex (n w x y : Nat) : Nat := (y / n) * blockCols n w + x / n

/-! Mode Halftone. -/

/-- `lum(r, g, b) = (77·r + 150·g + 29·b) >> 8` (R199). -/
def luminance (c : Chans Nat) : Nat := (77 * c.r + 150 * c.g + 29 * c.b) / 256

/-- The luminance sum of cell `k` (R200), from 0. -/
def cellSum (img : Nat → Nat → Chans Nat) (w h k : Nat) : Nat :=
  ((blockOf 4 w h k).map fun p => luminance (img p.1 p.2)).sum

/-- The dot size of a cell of `n` pixels and luminance sum `sum` (R200): `Lavg = sum div n` and
`D = ((255 − Lavg)·16 + 127) div 255`. -/
def dotSize (n sum : Nat) : Int := ((255 - ((sum / n : Nat) : Int)) * 16 + 127) / 255

/-- The clustered-dot matrix, CLUSTER4[row][column] (R202). -/
def cluster4 (row col : Nat) : Nat :=
  match row, col with
  | 0, 0 => 12 | 0, 1 => 5 | 0, 2 => 6 | 0, 3 => 13
  | 1, 0 => 4 | 1, 1 => 0 | 1, 2 => 1 | 1, 3 => 7
  | 2, 0 => 11 | 2, 1 => 3 | 2, 2 => 2 | 2, 3 => 8
  | 3, 0 => 15 | 3, 1 => 10 | 3, 2 => 9 | 3, 3 => 14
  | _, _ => 0

/-- A pixel's code when its cell's luminance sum is `sum` (R201): Black below the dot size, else the
pixel's own nearest entry. -/
def halftoneWith (pal : Palette) (img : Nat → Nat → Chans Nat) (w h x y sum : Nat) : Code :=
  if (cluster4 (y % 4) (x % 4) : Int) < dotSize (blockOf 4 w h (blockIndex 4 w x y)).length sum then 0
  else noneCode pal img x y

/-- Mode Halftone's code (R201). -/
def halftoneCode (pal : Palette) (img : Nat → Nat → Chans Nat) (w h x y : Nat) : Code :=
  halftoneWith pal img w h x y (cellSum img w h (blockIndex 4 w x y))

/-! Mode PopArt. -/

/-- Six counters at 0 (R210). -/
def noVotes : PerInk Nat := { black := 0, white := 0, yellow := 0, red := 0, blue := 0, green := 0 }

/-- One vote for an entry (R211). -/
def castVote (v : PerInk Nat) : Ink → PerInk Nat
  | .black => { v with black := v.black + 1 }
  | .white => { v with white := v.white + 1 }
  | .yellow => { v with yellow := v.yellow + 1 }
  | .red => { v with red := v.red + 1 }
  | .blue => { v with blue := v.blue + 1 }
  | .green => { v with green := v.green + 1 }

/-- The votes of tile `k`: each pixel for its mode-None entry (R210, R211). -/
def votesOf (pal : Palette) (img : Nat → Nat → Chans Nat) (w h k : Nat) : PerInk Nat :=
  (blockOf 8 w h k).foldl (fun v p => castVote v (nearest pal (chanInt (img p.1 p.2)))) noVotes

/-- The smallest entry with the highest count (R210, R212). -/
def dominant (v : PerInk Nat) : Ink := leastInk (fun i => -((inkGet v i : Nat) : Int))

/-- Mode PopArt's code (R210). -/
def popartCode (pal : Palette) (img : Nat → Nat → Chans Nat) (w h x y : Nat) : Code :=
  inkCode (dominant (votesOf pal img w h (blockIndex 8 w x y)))

end Sys2Proof.Machine
end

