-- ==== Sys2Proof/Machine/Quantize.lean ====
section
/-! DEFINITION. QUANTIZE (41_dither.md R180): for each mode the accept of its word and the body, one
engine step at a time (92_eei_decisions.md D53). A body step that writes the grid writes one byte. -/

namespace Sys2Proof.Machine

/-- The Image of the running command, as data memory holds it now (R182). -/
def liveImage (s : State) : Nat → Nat → Chans Nat := pixelAt s.mem s.op.src s.op.imgW

/-- QUANTIZE's accept-time checks after the decode, in order (R180, 60_exceptions.md R313). -/
def quantizeChecks (i : Instr) (s : State) : List (Bool × ErrCode) :=
  [dimCheck s, rangeCheck i s, overlapCheck i s]

/-- Address of the grid byte of pixel `k`, with x = k mod W and y = k div W (R183, R191). -/
def gridAddr (o : Op) (k : Nat) : Nat := o.dst + (k / o.imgW * o.imgW + k % o.imgW)

/-- `putcode(x, y, c)` for pixel `k` (R183), and on to the next pixel. -/
def putCode (k : Nat) (c : Code) (s : State) : State :=
  { s with mem := s.mem.write (gridAddr s.op k) (codeByte c), seq := .pixel (k + 1) }

/-- QUANTIZE's completion: RESULT is W·H (R180). -/
def finishQuantize (s : State) : State := complete (some s.op.gridBytes) s

/-- One pixel of the row-major loop, or the completion after the last one. -/
def paintStep (k : Nat) (c : Code) (s : State) : State :=
  if k < s.op.gridBytes then putCode k c s else finishQuantize s

/-! Mode None (R185). -/

def execQuantizeNone (s : State) : Host.Outcome State Fault Refusal :=
  .next (accept .quantizeNone (quantizeChecks .quantizeNone) (launch (.pixel 0)) s)

def bodyQuantizeNone (s : State) : Host.Outcome State Fault Refusal :=
  match s.seq with
  | .pixel k =>
    .next (paintStep k (noneCode s.par.palette (liveImage s) (k % s.op.imgW) (k / s.op.imgW)) s)
  | _ => .fault .strayPosition

/-! Mode FloydSteinberg (R190). -/

def execQuantizeFs (s : State) : Host.Outcome State Fault Refusal :=
  .next (accept .quantizeFs (quantizeChecks .quantizeFs) (launch .setup) s)

/-- One pixel of mode FloydSteinberg: the grid byte, and the error sent on (R190). -/
def fsPixelStep (k : Nat) (s : State) : State :=
  let o := liveImage s (k % s.op.imgW) (k / s.op.imgW)
  if k < s.op.gridBytes then
    { putCode k (inkCode (fsInk s.par.palette o s.fs (k % s.op.imgW))) s with
      fs := fsStep s.par.palette s.op.imgW k o s.fs }
  else finishQuantize s

def bodyQuantizeFs (s : State) : Host.Outcome State Fault Refusal :=
  match s.seq with
  | .setup => .next { s with fs := fsZero s.op.imgW, seq := .pixel 0 }
  | .pixel k => .next (fsPixelStep k s)
  | _ => .fault .strayPosition

/-! Mode Halftone (R201). -/

def execQuantizeHalftone (s : State) : Host.Outcome State Fault Refusal :=
  .next (accept .quantizeHalftone (quantizeChecks .quantizeHalftone) (launch .setup) s)

/-- The luminance sum of one more cell, or on to the pixels (R200, R201: "for every cell: compute D"). -/
def cellStep (k : Nat) (s : State) : State :=
  if k < blockCount 4 s.op.imgW s.op.imgH then
    { s with cellSums := s.cellSums ++ [cellSum (liveImage s) s.op.imgW s.op.imgH k], seq := .tally (k + 1) }
  else { s with seq := .pixel 0 }

def bodyQuantizeHalftone (s : State) : Host.Outcome State Fault Refusal :=
  match s.seq with
  | .setup => .next { s with cellSums := [], seq := .tally 0 }
  | .tally k => .next (cellStep k s)
  | .pixel k =>
    .next (paintStep k
      (halftoneWith s.par.palette (liveImage s) s.op.imgW s.op.imgH (k % s.op.imgW) (k / s.op.imgW)
        (s.cellSums.getD (blockIndex 4 s.op.imgW (k % s.op.imgW) (k / s.op.imgW)) 0)) s)
  | _ => .fault .strayPosition

/-! Mode Ordered (R196). -/

def execQuantizeOrdered (s : State) : Host.Outcome State Fault Refusal :=
  .next (accept .quantizeOrdered (quantizeChecks .quantizeOrdered) (launch (.pixel 0)) s)

def bodyQuantizeOrdered (s : State) : Host.Outcome State Fault Refusal :=
  match s.seq with
  | .pixel k =>
    .next (paintStep k (orderedCode s.par.palette (liveImage s) (k % s.op.imgW) (k / s.op.imgW)) s)
  | _ => .fault .strayPosition

/-! Mode PopArt (R210). -/

def execQuantizePopart (s : State) : Host.Outcome State Fault Refusal :=
  .next (accept .quantizePopart (quantizeChecks .quantizePopart) (launch .setup) s)

/-- The votes of one more tile, or on to the pixels (R210). -/
def tileStep (k : Nat) (s : State) : State :=
  if k < blockCount 8 s.op.imgW s.op.imgH then
    { s with
      tileVotes := s.tileVotes ++ [votesOf s.par.palette (liveImage s) s.op.imgW s.op.imgH k]
      seq := .tally (k + 1) }
  else { s with seq := .pixel 0 }

def bodyQuantizePopart (s : State) : Host.Outcome State Fault Refusal :=
  match s.seq with
  | .setup => .next { s with tileVotes := [], seq := .tally 0 }
  | .tally k => .next (tileStep k s)
  | .pixel k =>
    .next (paintStep k
      (inkCode (dominant (s.tileVotes.getD (blockIndex 8 s.op.imgW (k % s.op.imgW) (k / s.op.imgW)) noVotes))) s)
  | _ => .fault .strayPosition

end Sys2Proof.Machine
end

