-- ==== Sys2Proof/Machine/Dispatch.lean ====
section
/-! DEFINITION. exec: a command word presented to the engine (10_state.md R61). One arm for each
constructor of Instr. -/

namespace Sys2Proof.Machine

def exec (i : Instr) (s : State) : Host.Outcome State Fault Refusal :=
  match i with
  | .matchRgb => Sys2Proof.Machine.execMatch s
  | .quantizeNone => Sys2Proof.Machine.execQuantizeNone s
  | .quantizeFs => Sys2Proof.Machine.execQuantizeFs s
  | .quantizeHalftone => Sys2Proof.Machine.execQuantizeHalftone s
  | .quantizeOrdered => Sys2Proof.Machine.execQuantizeOrdered s
  | .quantizePopart => Sys2Proof.Machine.execQuantizePopart s
  | .pack => Sys2Proof.Machine.execPack s
  | .panelReset => Sys2Proof.Machine.execPanelReset s
  | .panelInit => Sys2Proof.Machine.execPanelInit s
  | .panelFull => Sys2Proof.Machine.execPanelFull s
  | .panelPartial => Sys2Proof.Machine.execPanelPartial s
  | .panelBlank code => Sys2Proof.Machine.execPanelBlank code s
  | .panelSleep => Sys2Proof.Machine.execPanelSleep s

end Sys2Proof.Machine
end

