-- ==== Sys2Proof/Machine/Engine.lean ====
section
/-! DEFINITION. The engine agent (00_scope.md R10, 10_state.md R61): one step of the running command's
body. It reads only the latched operands, never the live registers (R61). -/

namespace Sys2Proof.Machine

/-- The body of each command. MATCH has none: it completes in its accept step (40_palette.md R166). -/
def bodyOf (i : Instr) (s : State) : Host.Outcome State Fault Refusal :=
  match i with
  | .matchRgb => .fault .strayPosition
  | .quantizeNone => bodyQuantizeNone s
  | .quantizeFs => bodyQuantizeFs s
  | .quantizeHalftone => bodyQuantizeHalftone s
  | .quantizeOrdered => bodyQuantizeOrdered s
  | .quantizePopart => bodyQuantizePopart s
  | .pack => bodyPack s
  | .panelReset => bodyPanelReset s
  | .panelInit => bodyPanelInit s
  | .panelFull => bodyPanelFull s
  | .panelPartial => bodyPanelPartial s
  | .panelBlank code => bodyPanelBlank code s
  | .panelSleep => bodyPanelSleep s

/-- The running command: the latched word's, while BUSY is 1 (R55). -/
def running (s : State) : Option Instr := if s.busy then (decode s.op.word).toOption else none

/-- One engine step. With BUSY 0 the engine is idle. An access happens only if both ranges lie in data
memory (00_scope.md R18, 20_memory.md R81); every body keeps its accesses inside them. -/
def engineStep (s : State) : Host.Outcome State Fault Refusal :=
  if s.busy then
    match decode s.op.word with
    | .ok i =>
      if rangesFit i s.op s.par.memSize then bodyOf i s else .fault (.noSuchByte s.par.memSize)
    | .error _ => .fault .strayPosition
  else .next s

/-- `n` steps of the engine alone, with no host access between them. -/
def engineRun : Nat → State → Host.Outcome State Fault Refusal
  | 0, s => .next s
  | n + 1, s =>
    match engineStep s with
    | .next t => engineRun n t
    | .fault f => .fault f
    | .refused r => .refused r

end Sys2Proof.Machine
end

