-- ==== Sys2Proof/Machine/Visibility.lean ====
section
/-! DEFINITION. What others may see of a running command's destination: the old or the new value of
each byte before completion (20_memory.md R100, R108) and after an engine reset in mid-command
(70_reset_and_hazards.md R352). -/

namespace Sys2Proof.Machine

/-- The code QUANTIZE gives pixel `k` of an image, by mode; other commands give none and 0 stands here. -/
def modeCode (i : Instr) (pal : Palette) (img : Nat → Nat → Chans Nat) (w h k : Nat) : Code :=
  match i with
  | .quantizeNone => noneCode pal img (k % w) (k / w)
  | .quantizeFs => fsCode pal img w k
  | .quantizeHalftone => halftoneCode pal img w h (k % w) (k / w)
  | .quantizeOrdered => orderedCode pal img (k % w) (k / w)
  | .quantizePopart => popartCode pal img w h (k % w) (k / w)
  | .matchRgb | .pack | .panelReset | .panelInit | .panelFull | .panelPartial | .panelBlank _
  | .panelSleep => 0

/-- PACK's validation passes on the grid at SRC_ADDR (42_packer.md R230, R231). -/
def gridValid (o : Op) (m : Memory) : Bool :=
  (List.range o.gridBytes).all fun k => validByte (m.read (o.src + k))

/-- The byte a command leaves at an address, from data memory `m` at accept: the new value of R100. A
PACK whose validation fails writes nothing (R230). -/
def newByte (i : Instr) (o : Op) (pal : Palette) (m : Memory) (a : Nat) : Byte :=
  if inDst i o a then
    match i with
    | .pack =>
      if gridValid o m then
        packedByte (gridAt m o.src o.imgW) o.imgW ((a - o.dst) / o.stride) ((a - o.dst) % o.stride)
      else m.read a
    | .quantizeNone | .quantizeFs | .quantizeHalftone | .quantizeOrdered | .quantizePopart =>
      codeByte (modeCode i pal (pixelAt m o.src o.imgW) o.imgW o.imgH (a - o.dst))
    | .matchRgb | .panelReset | .panelInit | .panelFull | .panelPartial | .panelBlank _ | .panelSleep => m.read a
  else m.read a

/-- Is `a` a destination byte of the running command? -/
def inRunningDst (s : State) (a : Nat) : Bool :=
  match running s with
  | some i => inDst i s.op a
  | none => false

/-- Is `a` a byte of the running command's source or destination range (R362)? -/
def inRunningRange (s : State) (a : Nat) : Bool :=
  match running s with
  | some i => inSrc i s.op a || inDst i s.op a
  | none => false

/-- The old or the new byte of the running command's destination (R100). -/
def oldOrNew (s : State) (new : Bool) (a : Nat) : Byte :=
  match running s with
  | some i => if new then newByte i s.op s.par.palette s.acceptMem a else s.acceptMem.read a
  | none => s.mem.read a

/-- The byte a host load returns (R93, R100, R362). -/
def hostSees (s : State) (a : Nat) : Byte :=
  if inRunningDst s a then oldOrNew s (Config.raceSeesNew s.free) a else s.mem.read a

/-- Data memory after an engine reset (R352): byte by byte the old or the new value in the running
command's destination range, everything else as it is. -/
def memAfterReset (s : State) : Memory :=
  match running s with
  | some i =>
    (List.range (dstLen i s.op)).foldl
      (fun m k => m.write (s.op.dst + k) (oldOrNew s (Config.resetLeavesNew s.free (s.op.dst + k)) (s.op.dst + k)))
      s.mem
  | none => s.mem

end Sys2Proof.Machine
end

