-- ==== Sys2Proof/Machine/HostPort.lean ====
section
/-! DEFINITION. The host and the platform: register accesses (10_state.md R31 to R54), accesses to data
memory, engine reset, and which agent moves next. -/

namespace Sys2Proof.Machine

/-- PANEL_DIM (R42). -/
def panelDim (p : Params) : Word := BitVec.ofNat 16 p.panelH ++ BitVec.ofNat 16 p.panelW

/-- What a load of the register at an offset returns (R32, R54); it has no side effect (20_memory.md R93). -/
def regRead (s : State) (off : Nat) : Word :=
  match off with
  | 0x04 => statusWord s
  | 0x08 => s.imgDim
  | 0x0C => s.srcAddr
  | 0x10 => s.dstAddr
  | 0x14 => s.winXY
  | 0x18 => s.winWH
  | 0x1C => s.matchRgb.zeroExtend 32
  | 0x20 => s.result
  | 0x24 => s.bufLen
  | 0x28 => s.busyTimeout
  | 0x2C => panelDim s.par
  | 0x30 => Config.engineId
  | _ => 0

/-- A word written to CMD (R34, R61): a command, or the decode error. -/
def writeCmd (w : Word) (s : State) : Host.Outcome State Fault Refusal :=
  match decode w with
  | .ok i => exec i s
  | .error e => .next (rejectWord w e s)

/-- What a store to the register at an offset does (R32, R54). -/
def regWrite (off : Nat) (v : Word) (s : State) : Host.Outcome State Fault Refusal :=
  match off with
  | 0x00 => writeCmd v s
  | 0x04 => .next (writeStatus v s)
  | 0x08 => .next { s with imgDim := v }
  | 0x0C => .next { s with srcAddr := v }
  | 0x10 => .next { s with dstAddr := v }
  | 0x14 => .next { s with winXY := v }
  | 0x18 => .next { s with winWH := v }
  | 0x1C => .next { s with matchRgb := v.extractLsb' 0 24 }
  | 0x24 => .next { s with bufLen := v }
  | 0x28 => .next { s with busyTimeout := v }
  | _ => .next s

/-- Register accesses the host has no step for (R31, R33). -/
def regAccessRefused (off bytes : Nat) : Option Refusal :=
  if bytes ≠ 4 ∨ off % 4 ≠ 0 then some (.registerAccess off bytes)
  else if 256 ≤ off then some (.outsideWindow off)
  else none

/-- Record a host access (30_encoding.md R135). -/
def logAccess (e : HostEvent) (s : State) : State := { s with accesses := e :: s.accesses }

/-- A host load from a data-memory byte (20_memory.md R100); a race uses up a free value. -/
def hostMemLoad (a : Nat) (s : State) : State :=
  logAccess (.memLoaded a (hostSees s a)) { s with free := if inRunningDst s a then s.free + 1 else s.free }

/-- A host store to a data-memory byte. -/
def hostMemStore (a : Nat) (b : Byte) (s : State) : State :=
  logAccess (.memStored a b) { s with mem := s.mem.write a b }

/-- Engine reset (70_reset_and_hazards.md R350 to R352): every register and every internal state element
as tabled in 10_state.md R63. Data memory, the parameters, the inputs still to come and what has been seen
are not the engine's. -/
def engineReset (s : State) : State :=
  { State.reset with
    par := s.par
    mem := memAfterReset s
    free := s.free + 1
    host := s.host
    turns := s.turns
    levels := s.levels
    trace := s.trace
    accesses := s.accesses }

/-- One access of the host, already taken off its list. -/
def hostAccess (o : HostOp) (s : State) : Host.Outcome State Fault Refusal :=
  match o with
  | .store off bytes v =>
    match regAccessRefused off bytes with
    | some r => .refused r
    | none => regWrite off v (logAccess (.stored off v) s)
  | .load off bytes =>
    match regAccessRefused off bytes with
    | some r => .refused r
    | none => .next (logAccess (.loaded off (regRead s off)) s)
  | .wait =>
    let t := logAccess (.loaded 0x04 (statusWord s)) s
    .next (if s.busy then { t with host := .wait :: t.host } else t)
  | .memStore a b =>
    if s.par.memSize ≤ a then .fault (.noSuchByte a)
    else if inRunningRange s a then .refused (.storeToRunningRange a)
    else .next (hostMemStore a b s)
  | .memLoad a =>
    if s.par.memSize ≤ a then .fault (.noSuchByte a) else .next (hostMemLoad a s)
  | .powerCycle => .next (logAccess .powerCycled (engineReset s))

/-- The host's turn: its next access, or nothing if it has none left. -/
def hostStep (s : State) : Host.Outcome State Fault Refusal :=
  match s.host with
  | [] => .next s
  | o :: rest => hostAccess o { s with host := rest }

/-- Who moves next: the next pending turn; with none pending a running command goes on, and the host
moves when the engine is idle (assumption log 4). -/
def nextAgent (s : State) : Agent :=
  match s.turns with
  | a :: _ => a
  | [] => if s.busy then .engine else .host

/-- The turn is used up. -/
def takeTurn (s : State) : State := { s with turns := s.turns.tail }

/-- The step of the agent whose turn it is. -/
def agentStep (a : Agent) (s : State) : Host.Outcome State Fault Refusal :=
  match a with
  | .host => hostStep s
  | .engine => engineStep s

/-- A command word as the host's next access, the host to move, the engine idle: what the very next step
needs in order to present that word (assumption log 11). -/
def placeWord (w : Word) (s : State) : State :=
  { s with busy := false, seq := .idle, host := .store 0x00 4 w :: s.host, turns := .host :: s.turns }

end Sys2Proof.Machine
end

