-- ==== Sys2Proof/Machine/Step.lean ====
section
/-! DEFINITION. One step of the machine: the agent whose turn it is moves (00_scope.md R10,
92_eei_decisions.md D53). -/

namespace Sys2Proof.Machine

/-- One step. -/
def step (s : State) : Host.Outcome State Fault Refusal := agentStep (nextAgent s) (takeTurn s)

/-- `s` with a table word placed where the next step takes its command from: the host's list of
accesses (10_state.md R34, assumption log 11). -/
def State.withFetchWord (s : State) (nbits w : Nat) : State := placeWord (BitVec.ofNat 32 (w % 2 ^ nbits)) s

end Sys2Proof.Machine
end

