-- ==== Sys2Proof/Machine/Assembler.lean ====
section
/-! DEFINITION. The assembler's notation for host programs (30_encoding.md R130 to R135): register names,
lines, their expansion into host accesses, and the reader of a line's text. -/

namespace Sys2Proof.Machine

/-- The register names of 10_state.md R32. -/
inductive RegName where
  | cmd
  | status
  | imgDim
  | srcAddr
  | dstAddr
  | winXY
  | winWH
  | matchRgb
  | result
  | bufLen
  | busyTimeout
  | panelDim
  | id
  deriving DecidableEq, Repr

/-- A register's offset in the window (R32). -/
def regOffset : RegName → Nat
  | .cmd => 0x00
  | .status => 0x04
  | .imgDim => 0x08
  | .srcAddr => 0x0C
  | .dstAddr => 0x10
  | .winXY => 0x14
  | .winWH => 0x18
  | .matchRgb => 0x1C
  | .result => 0x20
  | .bufLen => 0x24
  | .busyTimeout => 0x28
  | .panelDim => 0x2C
  | .id => 0x30

/-- A register's host byte address, `REG_BASE + offset(REG)` (R31, R132). -/
def regAddr (p : Params) (r : RegName) : Nat := p.regBase + regOffset r

/-- The offset of a host byte address in the window, if it lies in the window's 256 bytes (R31). -/
def windowOffset (p : Params) (a : Nat) : Option Nat :=
  if p.regBase ≤ a ∧ a < p.regBase + 256 then some (a - p.regBase) else none

/-- The modes `<m>` of `convert.<m>` (R134). -/
inductive DitherMode where
  | none
  | fs
  | halftone
  | ordered
  | popart
  deriving DecidableEq, Repr

/-- The QUANTIZE command of a mode (R127, R131). -/
def modeInstr : DitherMode → Instr
  | .none => .quantizeNone
  | .fs => .quantizeFs
  | .halftone => .quantizeHalftone
  | .ordered => .quantizeOrdered
  | .popart => .quantizePopart

/-- A line of a program (R130): a command, a register access, or a pseudo-instruction (R134). -/
inductive Line where
  | command (i : Instr)
  | set (r : RegName) (v : Nat)
  | get (r : RegName)
  | wait
  | setDim (w h : Nat)
  | setWin (x y w h : Nat)
  | setRgb (r g b : Nat)
  | run (i : Instr)
  | convert (m : DitherMode) (s g f w h : Nat)
  | panelBringup
  | panelClear (c : Ink)
  | clrDropped
  deriving DecidableEq, Repr

/-- A line the assembler takes: its command is one it emits (R131). -/
def lineOk : Line → Bool
  | .command i | .run i => i.assembles
  | .set _ _ | .get _ | .wait | .setDim _ _ | .setWin _ _ _ _ | .setRgb _ _ _ | .convert _ _ _ _ _ _
  | .panelBringup | .panelClear _ | .clrDropped => true

/-- `set REG, v` (R132). -/
def asmSet (r : RegName) (v : Nat) : HostOp := .store (regOffset r) 4 (BitVec.ofNat 32 v)

/-- A command mnemonic: one host store of its word to CMD (R131). -/
def asmCommand (i : Instr) : HostOp := .store (regOffset .cmd) 4 (encode i)

/-- `set.dim W, H` (R134). -/
def asmDim (w h : Nat) : HostOp := asmSet .imgDim (h * 2 ^ 16 ||| w)

/-- `set.win X, Y, W, H` (R134). -/
def asmWin (x y w h : Nat) : List HostOp := [asmSet .winXY (y * 2 ^ 16 ||| x), asmSet .winWH (h * 2 ^ 16 ||| w)]

/-- `run <mnemonic>` (R134). -/
def asmRun (i : Instr) : List HostOp := [asmCommand i, .wait]

/-- The accesses a line stands for (R131 to R134). -/
def expandLine (p : Params) : Line → List HostOp
  | .command i => [asmCommand i]
  | .set r v => [asmSet r v]
  | .get r => [.load (regOffset r) 4]
  | .wait => [.wait]
  | .setDim w h => [asmDim w h]
  | .setWin x y w h => asmWin x y w h
  | .setRgb r g b => [asmSet .matchRgb (b * 2 ^ 16 ||| g * 2 ^ 8 ||| r)]
  | .run i => asmRun i
  | .convert m s g f w h =>
    [asmDim w h, asmSet .srcAddr s, asmSet .dstAddr g] ++ asmRun (modeInstr m) ++
      [asmSet .srcAddr g, asmSet .dstAddr f] ++ asmRun .pack
  | .panelBringup => asmRun .panelReset ++ asmRun .panelInit
  | .panelClear c => asmWin 0 0 p.panelW p.panelH ++ asmRun (.panelBlank (inkCode c))
  | .clrDropped => [asmSet .status 0x00000800]

/-- The accesses of a program (R135, R140). -/
def assemble (p : Params) (prog : List Line) : List HostOp := prog.flatMap (expandLine p)

/-- A state whose host is about to run a program (assumption log 11). -/
def loadProgram (prog : List Line) (s : State) : State := { s with host := assemble s.par prog }

/-! The text of a line (R130): mnemonics of R131 and R134, numbers decimal or `0x` hexadecimal, `;` starts
a comment. -/

/-- The text before a comment. -/
def stripComment (t : List Char) : List Char := t.takeWhile (· ≠ ';')

/-- Words are separated by blanks and commas. -/
def isSeparator (c : Char) : Bool := c == ' ' || c == ',' || c == '\t'

/-- The words of a text; `word` is the one being read, its letters reversed. -/
def wordsFrom (word : List Char) : List Char → List (List Char)
  | [] => if word.isEmpty then [] else [word.reverse]
  | c :: rest =>
    if isSeparator c then
      if word.isEmpty then wordsFrom [] rest else word.reverse :: wordsFrom [] rest
    else wordsFrom (c :: word) rest

/-- A digit's value, in either case. -/
def digitValue (c : Char) : Option Nat :=
  if '0' ≤ c ∧ c ≤ '9' then some (c.toNat - '0'.toNat)
  else if 'a' ≤ c ∧ c ≤ 'f' then some (c.toNat - 'a'.toNat + 10)
  else if 'A' ≤ c ∧ c ≤ 'F' then some (c.toNat - 'A'.toNat + 10)
  else none

/-- Digits in a base, most significant first. -/
def digitsIn (base : Nat) (acc : Nat) : List Char → Option Nat
  | [] => some acc
  | c :: rest =>
    match digitValue c with
    | some d => if d < base then digitsIn base (acc * base + d) rest else none
    | none => none

/-- A number, decimal or `0x` hexadecimal (R130). -/
def readNumber : List Char → Option Nat
  | [] => none
  | '0' :: 'x' :: c :: rest => digitsIn 16 0 (c :: rest)
  | c :: rest => digitsIn 10 0 (c :: rest)

/-- The entry of a table that a word names. -/
def lookupWord {α : Type} (t : List (String × α)) (w : List Char) : Option α :=
  (t.find? fun e => e.1.toList == w).map (·.2)

/-- The colours of `panel.blank <color>` (R131). -/
def colourNames : List (String × Ink) :=
  [("black", .black), ("white", .white), ("yellow", .yellow), ("red", .red), ("blue", .blue), ("green", .green)]

/-- The register names (10_state.md R32). -/
def registerNames : List (String × RegName) :=
  [("CMD", .cmd), ("STATUS", .status), ("IMG_DIM", .imgDim), ("SRC_ADDR", .srcAddr), ("DST_ADDR", .dstAddr),
   ("WIN_XY", .winXY), ("WIN_WH", .winWH), ("MATCH_RGB", .matchRgb), ("RESULT", .result), ("BUF_LEN", .bufLen),
   ("BUSY_TIMEOUT", .busyTimeout), ("PANEL_DIM", .panelDim), ("ID", .id)]

/-- The command mnemonics without an operand (R131). -/
def commandNames : List (String × Instr) :=
  [("match", .matchRgb), ("quantize.none", .quantizeNone), ("quantize.fs", .quantizeFs),
   ("quantize.halftone", .quantizeHalftone), ("quantize.ordered", .quantizeOrdered),
   ("quantize.popart", .quantizePopart), ("pack", .pack), ("panel.reset", .panelReset), ("panel.init", .panelInit),
   ("panel.full", .panelFull), ("panel.partial", .panelPartial), ("panel.sleep", .panelSleep)]

/-- The `convert.<m>` mnemonics (R134). -/
def convertNames : List (String × DitherMode) :=
  [("convert.none", .none), ("convert.fs", .fs), ("convert.halftone", .halftone), ("convert.ordered", .ordered),
   ("convert.popart", .popart)]

/-- A command from its words (R131). -/
def readCommand : List (List Char) → Option Instr
  | [w] => lookupWord commandNames w
  | [w, c] => if w = "panel.blank".toList then (lookupWord colourNames c).map fun k => .panelBlank (inkCode k) else none
  | _ => none

/-- A line with number operands from its mnemonic and its numbers (R134). -/
def readNumeric (m : List Char) (ns : List Nat) : Option Line :=
  match ns with
  | [w, h] => if m = "set.dim".toList then some (.setDim w h) else none
  | [r, g, b] => if m = "set.rgb".toList then some (.setRgb r g b) else none
  | [x, y, w, h] => if m = "set.win".toList then some (.setWin x y w h) else none
  | [s, g, f, w, h] => (lookupWord convertNames m).map fun mode => .convert mode s g f w h
  | _ => none

/-- A line from its words (R130 to R134). -/
def readWords : List (List Char) → Option Line
  | [] => none
  | m :: args =>
    if m = "set".toList then
      match args with
      | [r, v] =>
        match lookupWord registerNames r, readNumber v with
        | some reg, some n => some (.set reg n)
        | _, _ => none
      | _ => none
    else if m = "get".toList then
      match args with
      | [r] => (lookupWord registerNames r).map .get
      | _ => none
    else if m = "run".toList then (readCommand args).map .run
    else if m = "panel.clear".toList then
      match args with
      | [c] => (lookupWord colourNames c).map .panelClear
      | _ => none
    else if m = "wait".toList ∧ args = [] then some .wait
    else if m = "panel.bringup".toList ∧ args = [] then some .panelBringup
    else if m = "clr.dropped".toList ∧ args = [] then some .clrDropped
    else
      match readCommand (m :: args) with
      | some i => some (.command i)
      | none => (args.mapM readNumber).bind (readNumeric m)

/-- The line a text holds, `some none` for a blank or comment line, `none` for a text that is no line. -/
def readLine (t : String) : Option (Option Line) :=
  match wordsFrom [] (stripComment t.toList) with
  | [] => some none
  | ws => (readWords ws).map some

end Sys2Proof.Machine
end

