-- ==== Sys2Proof/Safety.lean ====
section
/-! DEFINITION. The terms in which claims are stated: operands that pass the accept-time checks, how a
command may end, what a step list does on pending busy levels, the invariant of the machine and what a
running command has written so far. -/

namespace Sys2Proof.Machine

/-- The operands the registers hold now (the word is not an operand). -/
def liveOp (s : State) : Op := operandsOf 0 s

/-! Operands that pass the accept-time checks, in the rules' own terms. -/

/-- QUANTIZE's operands are in order (41_dither.md R180). -/
structure QuantizeOk (s : State) : Prop where
  width : 1 ≤ (liveOp s).imgW
  height : 1 ≤ (liveOp s).imgH
  source : (liveOp s).src + 3 * ((liveOp s).imgW * (liveOp s).imgH) ≤ s.par.memSize
  dest : (liveOp s).dst + (liveOp s).imgW * (liveOp s).imgH ≤ s.par.memSize
  apart : (liveOp s).src + 3 * ((liveOp s).imgW * (liveOp s).imgH) ≤ (liveOp s).dst ∨
    (liveOp s).dst + (liveOp s).imgW * (liveOp s).imgH ≤ (liveOp s).src

/-- PACK's operands are in order (42_packer.md R230). -/
structure PackOk (s : State) : Prop where
  width : 1 ≤ (liveOp s).imgW
  height : 1 ≤ (liveOp s).imgH
  source : (liveOp s).src + (liveOp s).imgW * (liveOp s).imgH ≤ s.par.memSize
  dest : (liveOp s).dst + (liveOp s).imgH * ceilDiv (liveOp s).imgW 2 ≤ s.par.memSize
  apart : (liveOp s).src + (liveOp s).imgW * (liveOp s).imgH ≤ (liveOp s).dst ∨
    (liveOp s).dst + (liveOp s).imgH * ceilDiv (liveOp s).imgW 2 ≤ (liveOp s).src

/-- PANEL_DISPLAY_FULL's start state and operands are in order (43_panel.md R276). -/
structure FullOk (s : State) : Prop where
  state : s.pstate = .initialized
  length : (liveOp s).len = s.par.panelH * ceilDiv s.par.panelW 2
  source : (liveOp s).src + (liveOp s).len ≤ s.par.memSize

/-- A legal window (43_panel.md R283). -/
structure WindowOk (s : State) : Prop where
  width : 1 ≤ (liveOp s).winW
  height : 1 ≤ (liveOp s).winH
  right : (liveOp s).winX + (liveOp s).winW ≤ s.par.panelW
  bottom : (liveOp s).winY + (liveOp s).winH ≤ s.par.panelH

/-- PANEL_DISPLAY_PARTIAL's start state and operands are in order (43_panel.md R282). -/
structure PartialOk (s : State) : Prop where
  state : s.pstate = .initialized
  window : WindowOk s
  length : (liveOp s).len = (liveOp s).winH * ceilDiv (liveOp s).winW 2
  source : (liveOp s).src + (liveOp s).len ≤ s.par.memSize

/-- A legal blank area (43_panel.md R288). -/
structure AreaOk (s : State) : Prop where
  width : 1 ≤ (liveOp s).winW ∧ (liveOp s).winW ≤ s.par.panelW
  height : 1 ≤ (liveOp s).winH ∧ (liveOp s).winH ≤ s.par.panelH

/-- PANEL_DRAW_BLANK's start state and operands are in order (43_panel.md R288). -/
structure BlankOk (c : Code) (s : State) : Prop where
  state : s.pstate = .initialized
  code : Code.valid c = true
  area : AreaOk s

/-- Nothing stops a command at accept (60_exceptions.md R313). -/
def AcceptOk (i : Instr) (s : State) : Prop :=
  match i with
  | .matchRgb | .panelReset => True
  | .quantizeNone | .quantizeFs | .quantizeHalftone | .quantizeOrdered | .quantizePopart => QuantizeOk s
  | .pack => PackOk s
  | .panelInit => s.pstate = .resetting
  | .panelFull => FullOk s
  | .panelPartial => PartialOk s
  | .panelBlank c => BlankOk c s
  | .panelSleep => s.pstate = .initialized

/-! Kinds of commands, and what is left of one that runs. -/

def isQuantize : Instr → Bool
  | .quantizeNone | .quantizeFs | .quantizeHalftone | .quantizeOrdered | .quantizePopart => true
  | .matchRgb | .pack | .panelReset | .panelInit | .panelFull | .panelPartial | .panelBlank _ | .panelSleep => false

/-- The six panel commands (43_panel.md R250). -/
def isPanel : Instr → Bool
  | .panelReset | .panelInit | .panelFull | .panelPartial | .panelBlank _ | .panelSleep => true
  | .matchRgb | .quantizeNone | .quantizeFs | .quantizeHalftone | .quantizeOrdered | .quantizePopart | .pack => false

/-- The list steps a running command has still to run at its position, the busy-wait it is in included
(43_panel.md R255, R265). -/
def stepsToRun (i : Instr) (s : State) : List PanelStep :=
  match s.seq with
  | .steps todo => todo
  | .poll todo | .polled todo => .waitBusy :: todo
  | .check _ => if i = .pack then [] else s.par.refreshSeq
  | .transmit | .header _ | .data _ | .refresh => s.par.refreshSeq
  | .idle | .setup | .tally _ | .pixel _ | .packByte _ | .resetLine _ | .finish => []

/-- A channel's name (10_state.md R58). -/
inductive Channel where
  | red
  | green
  | blue
  deriving DecidableEq, Repr

/-- A channel of a triple. -/
def channel {α : Type} (t : Chans α) : Channel → α
  | .red => t.r
  | .green => t.g
  | .blue => t.b

/-! How a command ends. In each, `t` is `s` but for what is named; the latched operands and the working
values (10_state.md R56) may be anything. -/

/-- A command refused at accept with code `e` changed only STATUS (60_exceptions.md R315, R316). -/
def RejectedAs (e : ErrCode) (s t : State) : Prop :=
  t = { s with
    busy := false, done := false, err := true, errClass := e.cls, errCode := e, seq := .idle
    op := t.op, acceptPState := t.acceptPState, acceptMem := t.acceptMem }

/-- A command that failed after accept with code `e` (R315): PSTATE as at accept (R318), and beside
STATUS only bus events issued and busy levels used up. -/
def FailedAs (e : ErrCode) (s t : State) : Prop :=
  t = { s with
    busy := false, done := false, err := true, errClass := e.cls, errCode := e, seq := .idle
    trace := t.trace, levels := t.levels, free := t.free
    op := t.op, fs := t.fs, cellSums := t.cellSums, tileVotes := t.tileVotes, polls := t.polls
    acceptPState := t.acceptPState, acceptMem := t.acceptMem }

/-- A command that ended without error (10_state.md R62) and wrote nothing but data memory and RESULT. -/
def DoneInMemory (r : Word) (s t : State) : Prop :=
  t = { s with
    busy := false, done := true, err := false, errClass := .noError, errCode := .noError, seq := .idle
    mem := t.mem, result := r
    op := t.op, fs := t.fs, cellSums := t.cellSums, tileVotes := t.tileVotes
    acceptPState := t.acceptPState, acceptMem := t.acceptMem }

/-- A command that ended without error (R62), leaving PSTATE `p` and `r` in RESULT; beside STATUS only
bus events issued and busy levels used up. -/
def DoneOnBus (p : PState) (r : Word) (s t : State) : Prop :=
  t = { s with
    busy := false, done := true, err := false, errClass := .noError, errCode := .noError, seq := .idle
    pstate := p, result := r
    trace := t.trace, levels := t.levels, free := t.free
    op := t.op, polls := t.polls, acceptPState := t.acceptPState, acceptMem := t.acceptMem }

/-! What a busy-wait and a step list do on the pending busy levels (43_panel.md R255, R256). The result is
the events, the levels left, and whether the wait timed out; `none` if the pending levels do not decide. -/

/-- A busy-wait with bound `k` (0 for none) after `n` busy readings. -/
def waitEvents (active : Level) (k : Nat) : Nat → List Level → Option (List BusEvent × List Level × Bool)
  | _, [] => none
  | n, l :: rest =>
    if l ≠ active then some ([.poll l], rest, false)
    else if k ≠ 0 ∧ k ≤ n + 1 then some ([.poll l], rest, true)
    else (waitEvents active k (n + 1) rest).map fun r => (.poll l :: .delay .pollInterval :: r.1, r.2)

/-- A step list. -/
def listEvents (active : Level) (k : Nat) :
    List PanelStep → List Level → Option (List BusEvent × List Level × Bool)
  | [], ls => some ([], ls, false)
  | .cmd b :: rest, ls => (listEvents active k rest ls).map fun r => (.cmd b :: r.1, r.2)
  | .data b :: rest, ls => (listEvents active k rest ls).map fun r => (.data b :: r.1, r.2)
  | .waitBusy :: rest, ls =>
    match waitEvents active k 0 ls with
    | none => none
    | some (ev, ls', true) => some (ev, ls', true)
    | some (ev, ls', false) => (listEvents active k rest ls').map fun r => (ev ++ r.1, r.2)

/-- The pixel-data events of a buffer of `n` bytes. -/
def dataEvents (n : Nat) (byte : Nat → Byte) : List BusEvent := (List.range n).map fun i => .data (byte i)

/-! The invariant. -/

/-- A panel state in which no command runs (10_state.md R40). -/
def Resting (p : PState) : Prop := p ≠ .transmitting ∧ p ≠ .refreshing

/-- PSTATE while a step list runs, and after it (43_panel.md R265, R270, R294). -/
def listPState (during after : PState) : Seq → Option PState
  | .steps _ | .poll _ | .polled _ => some during
  | .finish => some after
  | _ => none

/-- PSTATE at the positions of a transfer after its validation (R276). -/
def transferPState : Seq → Option PState
  | .transmit => some .initialized
  | .header _ | .data _ | .refresh => some .transmitting
  | q => listPState .refreshing .initialized q

/-- PSTATE at each position of a command that was accepted in state `p` (43_panel.md R261); `none` for a
position the command does not have. -/
def seqPState (i : Instr) (p : PState) (q : Seq) : Option PState :=
  match i with
  | .matchRgb => none
  | .quantizeNone | .quantizeOrdered => match q with | .pixel _ => some p | _ => none
  | .quantizeFs => match q with | .setup | .pixel _ => some p | _ => none
  | .quantizeHalftone | .quantizePopart => match q with | .setup | .tally _ | .pixel _ => some p | _ => none
  | .pack => match q with | .check _ | .packByte _ => some p | _ => none
  | .panelReset => match q with | .resetLine 0 => some p | .resetLine _ => some .resetting | _ => none
  | .panelInit => listPState .resetting .initialized q
  | .panelFull | .panelPartial => match q with | .check _ => some .initialized | _ => transferPState q
  | .panelBlank _ => transferPState q
  | .panelSleep => listPState .initialized .sleeping q

/-- The panel state a command must start in, if it needs one (43_panel.md R259). -/
def startPState : Instr → Option PState
  | .panelInit => some .resetting
  | .panelFull | .panelPartial | .panelBlank _ | .panelSleep => some .initialized
  | .matchRgb | .quantizeNone | .quantizeFs | .quantizeHalftone | .quantizeOrdered | .quantizePopart | .pack
  | .panelReset => none

/-- What holds of a running command `i`: its ranges passed the checks (20_memory.md R95, R96), and the
sequencer and PSTATE agree (R259, R261). -/
structure RunOk (i : Instr) (s : State) : Prop where
  word : decode s.op.word = .ok i
  fits : rangesFit i s.op s.par.memSize = true
  apart : rangesOverlap i s.op = false
  start : ∀ p, startPState i = some p → s.acceptPState = p
  resting : Resting s.acceptPState
  position : seqPState i s.acceptPState s.seq = some s.pstate

/-- The invariant of the machine. -/
structure Inv (s : State) : Prop where
  /-- The parameters are legal (00_scope.md R13, 10_state.md R31, 20_memory.md R81, 43_panel.md R263). -/
  params : s.par.WellFormed = true
  /-- Data memory is canonical and has MEM_SIZE bytes (R81). -/
  canonical : Memory.wf s.mem
  inside : ∀ c ∈ s.mem, c.1 < s.par.memSize
  /-- The error class is the code's (60_exceptions.md R311), and ERR says whether there is one (R38, R39). -/
  cls : s.errClass = s.errCode.cls
  code : s.err = true ↔ s.errCode ≠ .noError
  /-- "DONE and ERR are never both 1" (R38). -/
  notBoth : ¬ (s.done = true ∧ s.err = true)
  /-- While a command runs, DONE and ERR are 0 (R37, R38). -/
  clear : s.busy = true → s.done = false ∧ s.err = false
  /-- With BUSY 0 the sequencer is idle and PSTATE is a resting state (R40). -/
  idle : s.busy = false → s.seq = .idle ∧ Resting s.pstate
  /-- With BUSY 1 a command runs in good order. -/
  run : s.busy = true → ∃ i, RunOk i s

/-! What a running command has written so far. -/

/-- The destination bytes written at a position. -/
def written : Seq → Nat
  | .pixel k | .packByte k => k
  | _ => 0

/-- The working values of a running command (10_state.md R58, R59), and what PACK's validation has
passed. -/
def WorkOk (i : Instr) (s : State) : Prop :=
  let img := pixelAt s.acceptMem s.op.src s.op.imgW
  let w := s.op.imgW
  let h := s.op.imgH
  match i with
  | .quantizeFs => ∀ k, s.seq = .pixel k → s.fs = fsBefore s.par.palette img w k
  | .quantizeHalftone =>
    (∀ k, s.seq = .tally k → k ≤ blockCount 4 w h ∧ s.cellSums = (List.range k).map (cellSum img w h)) ∧
    (∀ k, s.seq = .pixel k → s.cellSums = (List.range (blockCount 4 w h)).map (cellSum img w h))
  | .quantizePopart =>
    (∀ k, s.seq = .tally k →
      k ≤ blockCount 8 w h ∧ s.tileVotes = (List.range k).map (votesOf s.par.palette img w h)) ∧
    (∀ k, s.seq = .pixel k → s.tileVotes = (List.range (blockCount 8 w h)).map (votesOf s.par.palette img w h))
  | .pack =>
    (∀ k, s.seq = .check k → ∀ j, j < k → validByte (s.acceptMem.read (s.op.src + j)) = true) ∧
    (∀ k, s.seq = .packByte k → gridValid s.op s.acceptMem = true)
  | .matchRgb | .quantizeNone | .quantizeOrdered | .panelReset | .panelInit | .panelFull | .panelPartial
  | .panelBlank _ | .panelSleep => True

/-- While a command runs, its source is as it was at accept, and each destination byte holds its old value
or, once written, its new one (20_memory.md R99, R100, R101, R108). -/
def RunData (s : State) : Prop :=
  s.busy = true → ∀ i, decode s.op.word = .ok i →
    (∀ a, inSrc i s.op a = true → s.mem.read a = s.acceptMem.read a) ∧
    (∀ j, j < dstLen i s.op →
      s.mem.read (s.op.dst + j) =
        if j < written s.seq then newByte i s.op s.par.palette s.acceptMem (s.op.dst + j)
        else s.acceptMem.read (s.op.dst + j)) ∧
    WorkOk i s

/-! Other registers, and outcomes. -/

/-- The operand registers hold the values of `r` (R44 to R49, R52, R53). -/
def withRegisters (r : Op) (s : State) : State :=
  { s with
    imgDim := r.imgDim, srcAddr := r.srcAddr, dstAddr := r.dstAddr, winXY := r.winXY, winWH := r.winWH
    matchRgb := r.matchRgb, bufLen := r.bufLen, busyTimeout := r.busyTimeout }

/-- Change the state of a next state. -/
def mapNext (f : State → State) : Host.Outcome State Fault Refusal → Host.Outcome State Fault Refusal
  | .next t => .next (f t)
  | .fault x => .fault x
  | .refused x => .refused x

/-- The next access of the host is `o`, and it is the host's turn. -/
def HostWillDo (o : HostOp) (s : State) : Prop := nextAgent s = .host ∧ s.host.head? = some o

/-- A run of the whole machine is safe if no step of it stops (the terms of a claim about runs). -/
def SafeFor (n : Nat) (s : State) : Prop := ∃ t, Host.Core.run Sys2Proof.core n s = .next t

/-- What a program can observe (30_encoding.md R140): the registers, data memory and the bus trace. -/
def observed (s : State) : List Word × Memory × List BusEvent :=
  ((List.range 13).map fun k => regRead s (4 * k), s.mem, busTrace s)

end Sys2Proof.Machine
end

