-- ==== Sys2Proof/Certificates/Slice0/Obligations.lean ====
section
/-! DEFINITION. The statements about the machine, each from a numbered rule of spec/ or from a section
of it. A statement about a command's whole run says what `exec` answers (the accept step, 10_state.md R61)
and where the engine's own steps then end (R62). -/

open Sys2Proof Sys2Proof.Machine

/-! ## The command word -/

/-- R120, R122, R127, R128 and the table R123, which the spec derives from them: for each row of that table, the
word (for PANEL_DRAW_BLANK the word family) is the only one that selects the command; the blank word's fixed bits
are those of the mask 0xFFFFF8FF. -/
def Obligations.DecodeSelectsExactlyTheTableWords : Prop :=
  (∀ w : Word, decode w = .ok .matchRgb ↔ w = 0x00000001#32) ∧
  (∀ w : Word, decode w = .ok .quantizeNone ↔ w = 0x00000002#32) ∧
  (∀ w : Word, decode w = .ok .quantizeFs ↔ w = 0x00000012#32) ∧
  (∀ w : Word, decode w = .ok .quantizeHalftone ↔ w = 0x00000022#32) ∧
  (∀ w : Word, decode w = .ok .quantizeOrdered ↔ w = 0x00000032#32) ∧
  (∀ w : Word, decode w = .ok .quantizePopart ↔ w = 0x00000042#32) ∧
  (∀ w : Word, decode w = .ok .pack ↔ w = 0x00000003#32) ∧
  (∀ w : Word, decode w = .ok .panelReset ↔ w = 0x00000004#32) ∧
  (∀ w : Word, decode w = .ok .panelInit ↔ w = 0x00000005#32) ∧
  (∀ w : Word, decode w = .ok .panelFull ↔ w = 0x00000006#32) ∧
  (∀ w : Word, decode w = .ok .panelPartial ↔ w = 0x00000007#32) ∧
  (∀ (w : Word) (c : Code), decode w = .ok (.panelBlank c) ↔
    w &&& 0xFFFFF8FF#32 = 0x00000008#32 ∧ w.extractLsb' 8 3 = c) ∧
  (∀ w : Word, decode w = .ok .panelSleep ↔ w = 0x00000009#32) ∧
  decode 0x00000108#32 = .ok (.panelBlank 1)

/-- Decode and encode agree in both directions: a word is the command `i` exactly if it is `i`'s word. -/
def Obligations.DecodeAndEncodeAgree : Prop :=
  ∀ (w : Word) (i : Instr), i.WellFormed = true → (decode w = .ok i ↔ w = encode i)

/-- R121: the decode errors, each under exactly the rule's condition. -/
def Obligations.IllegalWordsAreNamedByTheDecodeRule : Prop :=
  ∀ w : Word,
    let opc := (w.extractLsb' 0 4).toNat
    let mode := (w.extractLsb' 4 3).toNat
    let code := (w.extractLsb' 8 3).toNat
    let badCommand := w.extractLsb' 7 1 ≠ 0#1 ∨ w.extractLsb' 11 21 ≠ 0#21 ∨ opc = 0 ∨ 10 ≤ opc ∨
      (opc ≠ 2 ∧ mode ≠ 0) ∨ (opc ≠ 8 ∧ code ≠ 0)
    (decode w = .error .badCommand ↔ badCommand) ∧
    (decode w = .error .badMode ↔ ¬ badCommand ∧ opc = 2 ∧ 5 ≤ mode) ∧
    ((∃ i, decode w = .ok i) ↔ ¬ badCommand ∧ ¬ (opc = 2 ∧ 5 ≤ mode))

/-- R121: a word written to CMD while BUSY is 0 completes at accept with InputError and the code of the first of
the rule's tests that it fails, whatever the operands and PSTATE; nothing but STATUS changes, so there is no memory
access and no bus event (R124). A word that fails none is a command, and is executed. -/
def Obligations.IllegalWordEndsInInputError : Prop :=
  ∀ (s : State) (w : Word), s.busy = false →
    let opc := (w.extractLsb' 0 4).toNat
    let mode := (w.extractLsb' 4 3).toNat
    let code := (w.extractLsb' 8 3).toNat
    let badCommand := w.extractLsb' 7 1 ≠ 0#1 ∨ w.extractLsb' 11 21 ≠ 0#21 ∨ opc = 0 ∨ 10 ≤ opc ∨
      (opc ≠ 2 ∧ mode ≠ 0) ∨ (opc ≠ 8 ∧ code ≠ 0)
    let badMode := opc = 2 ∧ 5 ≤ mode
    (badCommand → ∃ t, regWrite 0x00 w s = .next t ∧ RejectedAs .badCommand s t) ∧
    (¬ badCommand → badMode → ∃ t, regWrite 0x00 w s = .next t ∧ RejectedAs .badMode s t) ∧
    (¬ badCommand → ¬ badMode → ∃ i, decode w = .ok i ∧ regWrite 0x00 w s = exec i s)

/-- A sample of words, written out from the spec's table, decodes to the commands they stand for. -/
def Obligations.SampleWordsDecode : Prop :=
  decode 0b00000000000000000000000000000001#32 = .ok .matchRgb ∧
  decode 0b00000000000000000000000000010010#32 = .ok .quantizeFs ∧
  decode 0b00000000000000000000000000000011#32 = .ok .pack ∧
  decode 0b00000000000000000000011000001000#32 = .ok (.panelBlank 6) ∧
  decode 0b00000000000000000000000001010010#32 = .error .badMode ∧
  decode 0b00000000000000000000000000000000#32 = .error .badCommand

/-! ## The register window -/

/-- R35: after reset STATUS is 0; a load of it gives each field at its bits and 0 at the reserved bits; a store to
it changes only DROPPED, which becomes 0 when bit 11 of the word is 1. -/
def Obligations.StatusLoadAndStore : Prop :=
  statusWord State.reset = 0#32 ∧
  (∀ s : State,
    ∃ t, hostAccess (.load 0x04 4) s = .next t ∧
      ∃ v : Word, t.accesses = .loaded 0x04 v :: s.accesses ∧
        v.getLsbD 0 = s.busy ∧ v.getLsbD 1 = s.done ∧ v.getLsbD 2 = s.err ∧
        v.extractLsb' 3 2 = s.errClass.bits ∧ v.extractLsb' 5 3 = 0#3 ∧
        v.extractLsb' 8 3 = s.pstate.bits ∧ v.getLsbD 11 = s.dropped ∧ v.extractLsb' 12 4 = 0#4 ∧
        v.extractLsb' 16 8 = s.errCode.bits ∧ v.extractLsb' 24 8 = 0#8) ∧
  (∀ (s : State) (v : Word),
    hostAccess (.store 0x04 4 v) s =
      .next { s with
        dropped := s.dropped && !v.getLsbD 11
        accesses := .stored 0x04 v :: s.accesses })

/-- R44 to R49, R52, R53: an operand register is loaded as it was stored, but for bits 31:24 of MATCH_RGB,
which read 0; a store to one leaves every other register and the running command alone. -/
def Obligations.OperandRegistersReadBack : Prop :=
  ∀ (s : State) (v : Word) (off : Nat), off ∈ [0x08, 0x0C, 0x10, 0x14, 0x18, 0x1C, 0x24, 0x28] →
    ∃ t, regWrite off v s = .next t ∧
      regRead t off = (if off = 0x1C then v &&& 0x00FFFFFF#32 else v) ∧
      (∀ other, other ≠ off → regRead t other = regRead s other) ∧
      t.op = s.op ∧ t.seq = s.seq ∧ t.mem = s.mem ∧ t.trace = s.trace ∧ t.rstOut = s.rstOut ∧
      t.fs = s.fs ∧ t.cellSums = s.cellSums ∧ t.tileVotes = s.tileVotes ∧ t.polls = s.polls ∧
      t.acceptPState = s.acceptPState ∧ t.acceptMem = s.acceptMem ∧ t.par = s.par ∧ t.levels = s.levels

/-- R54, R32, R34, R42, R43: the reserved offsets read 0 and ignore stores; CMD reads 0; RESULT, PANEL_DIM and ID
ignore stores; PANEL_DIM holds PANEL_H and PANEL_W, ID the constant. -/
def Obligations.ReservedAndReadOnlyOffsets : Prop :=
  ∀ (s : State) (v : Word),
    (∀ off : Nat, 0x34 ≤ off → off ≤ 0xFC → off % 4 = 0 → regRead s off = 0#32 ∧ regWrite off v s = .next s) ∧
    regRead s 0x00 = 0#32 ∧
    regWrite 0x20 v s = .next s ∧ regWrite 0x2C v s = .next s ∧ regWrite 0x30 v s = .next s ∧
    regRead s 0x20 = s.result ∧ regRead s 0x30 = 0x44504531#32 ∧
    (s.par.WellFormed = true →
      ((regRead s 0x2C).extractLsb' 0 16).toNat = s.par.panelW ∧
      ((regRead s 0x2C).extractLsb' 16 16).toNat = s.par.panelH)

/-- R33, R91: a register access that is not a 32-bit access aligned to 4 bytes is refused. -/
def Obligations.OtherAccessesAreRefused : Prop :=
  ∀ (s : State) (off bytes : Nat) (v : Word), bytes ≠ 4 ∨ off % 4 ≠ 0 →
    hostAccess (.load off bytes) s = .refused (.registerAccess off bytes) ∧
    hostAccess (.store off bytes v) s = .refused (.registerAccess off bytes)

/-! ## Steps -/

/-- A step runs the decoded command: when the host moves and its next access is a store of `w` to CMD, and `w`
decodes to `i`, the step is `exec i`, after the turn and the access are used up and recorded. (Turns and the list
of host accesses are the model's form of the host, assumption logs 4 and 11.) -/
def Obligations.StepRunsTheDecodedCommand : Prop :=
  ∀ (s : State) (w : Word) (i : Instr) (rest : List HostOp),
    nextAgent s = .host → s.host = .store 0x00 4 w :: rest → decode w = .ok i →
      step s = exec i { s with
        turns := s.turns.tail, host := rest, accesses := .stored 0x00 w :: s.accesses }

/-- A step of the engine's turn is one engine step. (Turns are the model's form of interleaving, assumption log
4.) -/
def Obligations.StepRunsTheEngine : Prop :=
  ∀ s : State, nextAgent s = .engine → step s = engineStep { s with turns := s.turns.tail }

/-- R41, R61: a word written to CMD while BUSY is 1, legal or not, is dropped: DROPPED is 1 and nothing else
changes. -/
def Obligations.WordWhileBusyIsDropped : Prop :=
  ∀ (s : State) (w : Word), s.busy = true →
    regWrite 0x00 w s = .next { s with dropped := true }

/-- R61: a command other than MATCH whose checks pass is accepted: BUSY is 1, DONE, ERR, ERRCLASS and ERRCODE are
0, the word and the operands are latched, and nothing else changes but the sequencer. (acceptPState and acceptMem
are the model's own fields, assumption log 10.) -/
def Obligations.AcceptLatchesAndStarts : Prop :=
  ∀ (s : State) (i : Instr), s.busy = false → i ≠ .matchRgb → AcceptOk i s →
    ∃ t, exec i s = .next t ∧
      t = { s with
        busy := true, done := false, err := false, errClass := .noError, errCode := .noError
        op := { word := encode i, imgDim := s.imgDim, srcAddr := s.srcAddr, dstAddr := s.dstAddr,
                winXY := s.winXY, winWH := s.winWH, matchRgb := s.matchRgb, bufLen := s.bufLen,
                busyTimeout := s.busyTimeout }
        seq := t.seq, acceptPState := s.pstate, acceptMem := s.mem } ∧
      seqPState i s.pstate t.seq = some s.pstate

/-- The frame of every accept (R61; R316, the spec's own derivation): whatever exec answers, it is a next state,
and the operand registers, PSTATE, RST_OUT, data memory, the bus trace, the working values, the parameters and the
inputs are as before; DROPPED changes only if BUSY was 1; RESULT only for MATCH. -/
def Obligations.AcceptFrame : Prop :=
  ∀ (s : State) (i : Instr),
    ∃ t, exec i s = .next t ∧
      t.imgDim = s.imgDim ∧ t.srcAddr = s.srcAddr ∧ t.dstAddr = s.dstAddr ∧ t.winXY = s.winXY ∧
      t.winWH = s.winWH ∧ t.matchRgb = s.matchRgb ∧ t.bufLen = s.bufLen ∧ t.busyTimeout = s.busyTimeout ∧
      t.pstate = s.pstate ∧ t.rstOut = s.rstOut ∧ t.mem = s.mem ∧ t.trace = s.trace ∧ t.par = s.par ∧
      t.host = s.host ∧ t.turns = s.turns ∧ t.levels = s.levels ∧ t.accesses = s.accesses ∧ t.free = s.free ∧
      t.fs = s.fs ∧ t.cellSums = s.cellSums ∧ t.tileVotes = s.tileVotes ∧ t.polls = s.polls ∧
      (s.busy = false → t.dropped = s.dropped) ∧ (i ≠ .matchRgb → t.result = s.result)

/-- The frame of every engine step: the operand registers, the latched operands, DROPPED, the parameters, the
values kept from accept and the host's side are as before (R61, R41; a step's size is D53, assumption log 8). -/
def Obligations.EngineStepFrame : Prop :=
  ∀ s t : State, engineStep s = .next t →
    t.imgDim = s.imgDim ∧ t.srcAddr = s.srcAddr ∧ t.dstAddr = s.dstAddr ∧ t.winXY = s.winXY ∧
    t.winWH = s.winWH ∧ t.matchRgb = s.matchRgb ∧ t.bufLen = s.bufLen ∧ t.busyTimeout = s.busyTimeout ∧
    t.op = s.op ∧ t.dropped = s.dropped ∧ t.par = s.par ∧ t.acceptPState = s.acceptPState ∧
    t.acceptMem = s.acceptMem ∧ t.host = s.host ∧ t.turns = s.turns ∧ t.accesses = s.accesses

/-- R61 (and R363, which the spec derives from it): a running command reads only its latched operands: with any
other values in the operand registers an engine step does the same, and leaves those values. -/
def Obligations.EngineReadsOnlyLatchedOperands : Prop :=
  ∀ (s : State) (r : Op), engineStep (withRegisters r s) = mapNext (withRegisters r) (engineStep s)

/-! ## MATCH and the palette -/

/-- R166, R50: MATCH, with BUSY 0, completes in its accept step: RESULT is the code of the nearest entry (the
codes of R50 are written out), DONE is 1, ERR, ERRCLASS and ERRCODE are 0, and data memory, the bus and PSTATE are
untouched. -/
def Obligations.MatchPutsTheNearestCodeInResult : Prop :=
  (∀ s : State, s.busy = false →
    ∃ t, exec .matchRgb s = .next t ∧
      DoneInMemory
        ((inkCode (nearest s.par.palette
          { r := ((s.matchRgb.extractLsb' 0 8).toNat : Int), g := ((s.matchRgb.extractLsb' 8 8).toNat : Int),
            b := ((s.matchRgb.extractLsb' 16 8).toNat : Int) })).zeroExtend 32) s t ∧
      t.mem = s.mem) ∧
  inkCode .black = 0#3 ∧ inkCode .white = 1#3 ∧ inkCode .yellow = 2#3 ∧ inkCode .red = 3#3 ∧
  inkCode .blue = 5#3 ∧ inkCode .green = 6#3

/-- R161, R162: `match` returns an entry of minimum distance, and of those the one declared first; the distance is
the sum of the squared differences of the three channels, and lies in 0..195075 for channels in 0..255. -/
def Obligations.NearestIsTheFirstMinimum : Prop :=
  ∀ (pal : Palette) (c : Chans Int) (i : Ink),
    let entry : Ink → Chans Byte := fun j =>
      match j with
      | .black => pal.black
      | .white => pal.white
      | .yellow => pal.yellow
      | .red => pal.red
      | .blue => pal.blue
      | .green => pal.green
    let index : Ink → Nat := fun j =>
      match j with
      | .black => 0
      | .white => 1
      | .yellow => 2
      | .red => 3
      | .blue => 4
      | .green => 5
    let dist : Ink → Int := fun j =>
      (c.r - ((entry j).r.toNat : Int)) ^ 2 + (c.g - ((entry j).g.toNat : Int)) ^ 2 +
        (c.b - ((entry j).b.toNat : Int)) ^ 2
    (nearest pal c = i ↔ (∀ j, dist i ≤ dist j) ∧ (∀ j, index j < index i → dist i < dist j)) ∧
    (0 ≤ c.r ∧ c.r ≤ 255 → 0 ≤ c.g ∧ c.g ≤ 255 → 0 ≤ c.b ∧ c.b ≤ 255 → 0 ≤ dist i ∧ dist i ≤ 195075)

/-- R161, R162 and R50 (R168, the spec's own derivation; the triples are the model's default, assumption log 2): a
grey of value at most 127 is matched to Black, a brighter one to White. -/
def Obligations.GreysMatchBlackOrWhite : Prop :=
  ∀ v : Int, 0 ≤ v → v ≤ 255 →
    nearest defaultPalette { r := v, g := v, b := v } = if v ≤ 127 then .black else .white

/-! ## QUANTIZE -/

/-- R180, R313: QUANTIZE's accept-time errors, in their order; the first that applies is raised and nothing but
STATUS changes. -/
def Obligations.QuantizeRejectsInOrder : Prop :=
  ∀ (s : State) (i : Instr), s.busy = false → isQuantize i = true →
    let o := liveOp s
    let n := o.imgW * o.imgH
    let beyond := s.par.memSize < o.src + 3 * n ∨ s.par.memSize < o.dst + n
    ((o.imgW = 0 ∨ o.imgH = 0) → ∃ t, exec i s = .next t ∧ RejectedAs .zeroDim s t) ∧
    (1 ≤ o.imgW → 1 ≤ o.imgH → beyond → ∃ t, exec i s = .next t ∧ RejectedAs .memRange s t) ∧
    (1 ≤ o.imgW → 1 ≤ o.imgH → ¬ beyond → (∃ a, (o.src ≤ a ∧ a < o.src + 3 * n) ∧ (o.dst ≤ a ∧ a < o.dst + n)) →
      ∃ t, exec i s = .next t ∧ RejectedAs .overlap s t)

/-- R185: QUANTIZE mode None runs to completion and gives each pixel the code of its nearest entry; RESULT is
W·H, every byte outside the IndexGrid is as before, and so is everything else but STATUS. -/
def Obligations.QuantizeNoneFillsTheGrid : Prop :=
  ∀ s : State, s.busy = false → Memory.wf s.mem → QuantizeOk s →
    let o := liveOp s
    ∃ t n u, exec .quantizeNone s = .next t ∧ engineRun n t = .next u ∧
      DoneInMemory (BitVec.ofNat 32 (o.imgW * o.imgH)) s u ∧
      (∀ x y, x < o.imgW → y < o.imgH →
        u.mem.read (o.dst + (y * o.imgW + x)) =
          codeByte (inkCode (nearest s.par.palette (chanInt (pixelAt s.mem o.src o.imgW x y))))) ∧
      (∀ a, a < o.dst ∨ o.dst + o.imgW * o.imgH ≤ a → u.mem.read a = s.mem.read a)

/-- R190: QUANTIZE mode FloydSteinberg runs to completion and gives each pixel, in row-major order, the code the
rule's recurrence over the Image gives it. The recurrence is written out: `cur k c j` and `nxt k c j` are element
`j` of channel `c`'s accumulators before pixel `k`, 0 before the first; `v` is the clamped value, `e` the error,
and a row's end makes `nxt` the current row. The frame is that of mode None. -/
def Obligations.QuantizeFloydSteinbergFillsTheGrid : Prop :=
  ∀ s : State, s.busy = false → Memory.wf s.mem → QuantizeOk s →
    let o := liveOp s
    ∃ t n u, exec .quantizeFs s = .next t ∧ engineRun n t = .next u ∧
      DoneInMemory (BitVec.ofNat 32 (o.imgW * o.imgH)) s u ∧
      (∃ (cur nxt : Nat → Channel → Nat → Int) (ink : Nat → Ink),
        (∀ c j, cur 0 c j = 0 ∧ nxt 0 c j = 0) ∧
        (∀ k, k < o.imgW * o.imgH →
          let x := k % o.imgW
          let y := k / o.imgW
          let px : Channel → Nat := channel (pixelAt s.mem o.src o.imgW x y)
          let v : Channel → Int := fun c =>
            max 0 (min 255 ((16 * (px c : Int) + cur k c (x + 1) + 8) / 16))
          let e : Channel → Int := fun c => v c - channel (inkRgb s.par.palette (ink k)) c
          let right : Channel → Nat → Int := fun c j => cur k c j + if j = x + 2 then 7 * e c else 0
          let below : Channel → Nat → Int := fun c j =>
            nxt k c j + (if j = x then 3 * e c else 0) + (if j = x + 1 then 5 * e c else 0) +
              (if j = x + 2 then 1 * e c else 0)
          ink k = nearest s.par.palette { r := v .red, g := v .green, b := v .blue } ∧
          u.mem.read (o.dst + (y * o.imgW + x)) = codeByte (inkCode (ink k)) ∧
          (∀ c j, j ≤ o.imgW + 1 →
            cur (k + 1) c j = (if x + 1 = o.imgW then below c j else right c j) ∧
            nxt (k + 1) c j = (if x + 1 = o.imgW then 0 else below c j)))) ∧
      (∀ a, a < o.dst ∨ o.dst + o.imgW * o.imgH ≤ a → u.mem.read a = s.mem.read a)

/-- R196: QUANTIZE mode Ordered runs to completion and gives each pixel the nearest entry of its channels, each
moved by `16·t − 120`, with t from BAYER4, written out, and clamped; the frame is that of mode None. (BAYER4 is
the spec's general knowledge, PRESUMED, assumption log 2.) -/
def Obligations.QuantizeOrderedFillsTheGrid : Prop :=
  ∀ s : State, s.busy = false → Memory.wf s.mem → QuantizeOk s →
    let o := liveOp s
    ∃ t n u, exec .quantizeOrdered s = .next t ∧ engineRun n t = .next u ∧
      DoneInMemory (BitVec.ofNat 32 (o.imgW * o.imgH)) s u ∧
      (∀ x y, x < o.imgW → y < o.imgH →
        let p := pixelAt s.mem o.src o.imgW x y
        let row : List Int :=
          match y % 4 with
          | 0 => [0, 8, 2, 10]
          | 1 => [12, 4, 14, 6]
          | 2 => [3, 11, 1, 9]
          | _ => [15, 7, 13, 5]
        let off : Int := 16 * row.getD (x % 4) 0 - 120
        u.mem.read (o.dst + (y * o.imgW + x)) =
          codeByte (inkCode (nearest s.par.palette
            { r := clampInt ((p.r : Int) + off) 0 255, g := clampInt ((p.g : Int) + off) 0 255,
              b := clampInt ((p.b : Int) + off) 0 255 }))) ∧
      (∀ a, a < o.dst ∨ o.dst + o.imgW * o.imgH ≤ a → u.mem.read a = s.mem.read a)

/-- R199 to R202: QUANTIZE mode Halftone runs to completion and makes a pixel Black where CLUSTER4's entry is
below the dot size of its 4 × 4 cell, and gives it its own nearest entry elsewhere; the luminance and CLUSTER4 are
written out, and the frame is that of mode None. (The luminance weights are the spec's general knowledge,
PRESUMED, assumption log 2.) -/
def Obligations.QuantizeHalftoneFillsTheGrid : Prop :=
  ∀ s : State, s.busy = false → Memory.wf s.mem → QuantizeOk s →
    let o := liveOp s
    ∃ t n u, exec .quantizeHalftone s = .next t ∧ engineRun n t = .next u ∧
      DoneInMemory (BitVec.ofNat 32 (o.imgW * o.imgH)) s u ∧
      (∀ x y, x < o.imgW → y < o.imgH →
        let img := pixelAt s.mem o.src o.imgW
        let cell := blockPixels 4 o.imgW o.imgH (x / 4) (y / 4)
        let lum : Chans Nat → Nat := fun c => (77 * c.r + 150 * c.g + 29 * c.b) / 256
        let lavg := (cell.map fun p => lum (img p.1 p.2)).sum / cell.length
        let dot : Int := ((255 - (lavg : Int)) * 16 + 127) / 255
        let row : List Int :=
          match y % 4 with
          | 0 => [12, 5, 6, 13]
          | 1 => [4, 0, 1, 7]
          | 2 => [11, 3, 2, 8]
          | _ => [15, 10, 9, 14]
        u.mem.read (o.dst + (y * o.imgW + x)) =
          codeByte (if row.getD (x % 4) 0 < dot then 0#3
            else inkCode (nearest s.par.palette (chanInt (img x y))))) ∧
      (∀ a, a < o.dst ∨ o.dst + o.imgW * o.imgH ≤ a → u.mem.read a = s.mem.read a)

/-- R210 to R212: QUANTIZE mode PopArt runs to completion and gives each pixel the entry that most pixels of its 8
× 8 tile are nearest to, the one declared first where counts are equal; the frame is that of mode None. -/
def Obligations.QuantizePopartFillsTheGrid : Prop :=
  ∀ s : State, s.busy = false → Memory.wf s.mem → QuantizeOk s →
    let o := liveOp s
    ∃ t n u, exec .quantizePopart s = .next t ∧ engineRun n t = .next u ∧
      DoneInMemory (BitVec.ofNat 32 (o.imgW * o.imgH)) s u ∧
      (∀ x y, x < o.imgW → y < o.imgH →
        ∃ dom : Ink,
          u.mem.read (o.dst + (y * o.imgW + x)) = codeByte (inkCode dom) ∧
          (let img := pixelAt s.mem o.src o.imgW
           let votes : Ink → Nat := fun k =>
             (blockPixels 8 o.imgW o.imgH (x / 8) (y / 8)).countP fun p =>
               decide (nearest s.par.palette (chanInt (img p.1 p.2)) = k)
           (∀ k, votes k ≤ votes dom) ∧ (∀ k, inkIndex k < inkIndex dom → votes k < votes dom))) ∧
      (∀ a, a < o.dst ∨ o.dst + o.imgW * o.imgH ≤ a → u.mem.read a = s.mem.read a)

/-- R183 (and R181, the spec's own derivation): every byte of data memory that a step of a running QUANTIZE
changes becomes one of the six palette codes, bits 7:3 being 0; and so is each byte its whole run leaves in the
destination. -/
def Obligations.QuantizeWritesOnlyPaletteCodes : Prop :=
  (∀ (s t : State) (i : Instr), Memory.wf s.mem → s.busy = true → decode s.op.word = .ok i → isQuantize i = true →
    engineStep s = .next t →
    ∀ a, t.mem.read a ≠ s.mem.read a → t.mem.read a ∈ [0x00#8, 0x01#8, 0x02#8, 0x03#8, 0x05#8, 0x06#8]) ∧
  (∀ (i : Instr) (o : Op) (pal : Palette) (m : Memory) (a : Nat), isQuantize i = true → inDst i o a = true →
    newByte i o pal m a ∈ [0x00#8, 0x01#8, 0x02#8, 0x03#8, 0x05#8, 0x06#8])

/-- R190, R192 (and R193, the spec's own derivation; R58): before every pixel of every image
each Floyd-Steinberg accumulator element lies in −4080..4080. -/
def Obligations.AccumulatorsStayBounded : Prop :=
  ∀ (pal : Palette) (img : Nat → Nat → Chans Nat) (w k : Nat), 1 ≤ w →
    let acc := fsBefore pal img w k
    ∀ row ∈ [acc.cur.r, acc.cur.g, acc.cur.b, acc.nxt.r, acc.nxt.g, acc.nxt.b],
      row.length = w + 2 ∧ ∀ e ∈ row, -4080 ≤ e ∧ e ≤ 4080

/-- R185 to R212 (and R214, the spec's own derivation): the codes a QUANTIZE mode gives depend on the mode, W, H
and the Image's own pixels alone: two images that agree inside W × H get the same codes. -/
def Obligations.GridDependsOnlyOnTheImage : Prop :=
  ∀ (i : Instr) (pal : Palette) (img img' : Nat → Nat → Chans Nat) (w h k : Nat), isQuantize i = true →
    (∀ x y, x < w → y < h → img x y = img' x y) → k < w * h →
    modeCode i pal img w h k = modeCode i pal img' w h k

/-- R200 (and its table R203, the spec's own derivation): the dot size is 16 for an average luminance of at most
7, else `16 − ceil((Lavg − 7)/16)`. -/
def Obligations.DotSizeFollowsTheTable : Prop :=
  ∀ n sum : Nat, sum / n ≤ 255 →
    dotSize n sum = if sum / n ≤ 7 then 16 else 16 - (ceilDiv (sum / n - 7) 16 : Nat)

/-- R196, R200, R201, R210 (and R215, the spec's own derivation): modes Ordered and Halftone have period 4 and
mode PopArt has period 8 in both axes. Image B is image A moved by whole periods where both have pixels: then in
mode Ordered a pixel that lies in both, and in modes Halftone and PopArt a pixel whose cell or tile lies in both,
gets the same code. -/
def Obligations.ModesArePeriodic : Prop :=
  ∀ (pal : Palette) (a b : Nat → Nat → Chans Nat) (wa ha wb hb p q x y : Nat),
    let shifted : Nat → Prop := fun n => ∀ x' y', x' < wa → y' < ha → x' + n * p < wb → y' + n * q < hb →
      b (x' + n * p) (y' + n * q) = a x' y'
    let blockInside : Nat → Prop := fun n => n * (x / n) + n ≤ wa ∧ n * (y / n) + n ≤ ha ∧
      n * ((x + n * p) / n) + n ≤ wb ∧ n * ((y + n * q) / n) + n ≤ hb
    (shifted 4 → x < wa → y < ha → x + 4 * p < wb → y + 4 * q < hb →
      orderedCode pal b (x + 4 * p) (y + 4 * q) = orderedCode pal a x y) ∧
    (shifted 4 → blockInside 4 →
      halftoneCode pal b wb hb (x + 4 * p) (y + 4 * q) = halftoneCode pal a wa ha x y) ∧
    (shifted 8 → blockInside 8 →
      popartCode pal b wb hb (x + 8 * p) (y + 8 * q) = popartCode pal a wa ha x y)

/-! ## PACK -/

/-- R230, R313: PACK's accept-time errors, in their order. -/
def Obligations.PackRejectsInOrder : Prop :=
  ∀ s : State, s.busy = false →
    let o := liveOp s
    let n := o.imgW * o.imgH
    let f := o.imgH * ceilDiv o.imgW 2
    let beyond := s.par.memSize < o.src + n ∨ s.par.memSize < o.dst + f
    ((o.imgW = 0 ∨ o.imgH = 0) → ∃ t, exec .pack s = .next t ∧ RejectedAs .zeroDim s t) ∧
    (1 ≤ o.imgW → 1 ≤ o.imgH → beyond → ∃ t, exec .pack s = .next t ∧ RejectedAs .memRange s t) ∧
    (1 ≤ o.imgW → 1 ≤ o.imgH → ¬ beyond → (∃ a, (o.src ≤ a ∧ a < o.src + n) ∧ (o.dst ≤ a ∧ a < o.dst + f)) →
      ∃ t, exec .pack s = .next t ∧ RejectedAs .overlap s t)

/-- R230, R232, R233, R234: PACK of a valid grid runs to completion: FrameBuffer byte k of row y holds pixel 2k in
its high nibble and pixel 2k+1, or 0 where there is none, in its low one; RESULT is H·ceil(W/2), every byte
outside the FrameBuffer is as before. -/
def Obligations.PackFillsTheFrameBuffer : Prop :=
  ∀ s : State, s.busy = false → Memory.wf s.mem → PackOk s →
    let o := liveOp s
    let l := ceilDiv o.imgW 2
    (∀ j, j < o.imgW * o.imgH → s.mem.read (o.src + j) ∈ [0x00#8, 0x01#8, 0x02#8, 0x03#8, 0x05#8, 0x06#8]) →
    ∃ t n u, exec .pack s = .next t ∧ engineRun n t = .next u ∧
      DoneInMemory (BitVec.ofNat 32 (o.imgH * l)) s u ∧
      (∀ y k, y < o.imgH → k < l →
        (u.mem.read (o.dst + (y * l + k))).extractLsb' 4 4 =
          (s.mem.read (o.src + (y * o.imgW + 2 * k))).extractLsb' 0 4 ∧
        (u.mem.read (o.dst + (y * l + k))).extractLsb' 0 4 =
          if 2 * k + 1 < o.imgW then (s.mem.read (o.src + (y * o.imgW + 2 * k + 1))).extractLsb' 0 4 else 0#4) ∧
      (∀ a, a < o.dst ∨ o.dst + o.imgH * l ≤ a → u.mem.read a = s.mem.read a)

/-- R230, R231, R276, R277, R282, R314: PACK of a grid with a byte that is no palette code, and a display command
whose buffer has a nibble that is none, end in InputError(BAD_INDEX): nothing is written, no bus event is issued,
and PSTATE is as it was. -/
def Obligations.BadIndexEndsBeforeAnyEffect : Prop :=
  ∀ (s : State) (i : Instr), s.busy = false →
    (i = .pack ∧ PackOk s ∧ (∃ j, j < (liveOp s).imgW * (liveOp s).imgH ∧
        s.mem.read ((liveOp s).src + j) ∉ [0x00#8, 0x01#8, 0x02#8, 0x03#8, 0x05#8, 0x06#8]) ∨
      (i = .panelFull ∧ FullOk s ∨ i = .panelPartial ∧ PartialOk s) ∧
        (∃ j, j < (liveOp s).len ∧
          ((s.mem.read ((liveOp s).src + j)).extractLsb' 4 4 ∉ [0#4, 1#4, 2#4, 3#4, 5#4, 6#4] ∨
            (s.mem.read ((liveOp s).src + j)).extractLsb' 0 4 ∉ [0#4, 1#4, 2#4, 3#4, 5#4, 6#4]))) →
    ∃ t n u, exec i s = .next t ∧ engineRun n t = .next u ∧ FailedAs .badIndex s u ∧ u.trace = s.trace ∧
      u.levels = s.levels ∧ u.free = s.free

/-- R230, R234, R236 (and R237, the spec's own derivation): unpacking the bytes PACK makes of a grid gives the
grid's codes back, and packing those again gives the same bytes, for every width, odd or even. -/
def Obligations.UnpackThenPackRoundTrips : Prop :=
  ∀ (g : Nat → Nat → Byte) (w : Nat), 1 ≤ w → (∀ x y, validByte (g x y) = true) →
    let bytes : Nat → Byte := fun j => packedByte g w (j / ceilDiv w 2) (j % ceilDiv w 2)
    (∀ x y, x < w → codeByte ((unpackCode bytes w x y).setWidth 3) = g x y) ∧
    (∀ y k, k < ceilDiv w 2 →
      packedByte (fun x y => (unpackCode bytes w x y).setWidth 8) w y k = bytes (y * ceilDiv w 2 + k))

/-! ## The panel commands -/

/-- R259, R260, R313: a panel command other than PANEL_RESET in a state its row marks BAD_STATE raises
ProtocolError(BAD_STATE) at accept, whatever its operands: nothing but STATUS changes, so there is no bus event. -/
def Obligations.WrongStateIsRefusedWithoutTraffic : Prop :=
  ∀ (s : State) (i : Instr), s.busy = false →
    (i = .panelInit ∧ s.pstate ≠ .resetting ∨
      (i = .panelFull ∨ i = .panelPartial ∨ i = .panelSleep ∨ ∃ c, i = .panelBlank c) ∧ s.pstate ≠ .initialized) →
    ∃ t, exec i s = .next t ∧ RejectedAs .badState s t

/-- R276, R282, R283, R288, R313: the other accept-time errors of the transfer commands, in their order. -/
def Obligations.TransferOperandsAreCheckedInOrder : Prop :=
  ∀ s : State, s.busy = false → s.pstate = .initialized →
    let o := liveOp s
    let full := s.par.panelH * ceilDiv s.par.panelW 2
    let part := o.winH * ceilDiv o.winW 2
    (o.len ≠ full → ∃ t, exec .panelFull s = .next t ∧ RejectedAs .badLength s t) ∧
    (o.len = full → 0 < o.len → s.par.memSize < o.src + o.len →
      ∃ t, exec .panelFull s = .next t ∧ RejectedAs .memRange s t) ∧
    (¬ WindowOk s → ∃ t, exec .panelPartial s = .next t ∧ RejectedAs .badWindow s t) ∧
    (WindowOk s → o.len ≠ part → ∃ t, exec .panelPartial s = .next t ∧ RejectedAs .badLength s t) ∧
    (WindowOk s → o.len = part → s.par.memSize < o.src + o.len →
      ∃ t, exec .panelPartial s = .next t ∧ RejectedAs .memRange s t) ∧
    (∀ c, c = 4#3 ∨ c = 7#3 → ∃ t, exec (.panelBlank c) s = .next t ∧ RejectedAs .badIndex s t) ∧
    (∀ c, c ≠ 4#3 → c ≠ 7#3 → ¬ AreaOk s → ∃ t, exec (.panelBlank c) s = .next t ∧ RejectedAs .badWindow s t)

/-- R266: PANEL_RESET, legal in every resting state, drives the reset line high, low and high, each followed by its
hold time; PSTATE is Resetting, RST_OUT 1, and RESULT and data memory are unchanged. -/
def Obligations.PanelResetDrivesTheResetLine : Prop :=
  ∀ s : State, s.busy = false →
    ∃ t n u, exec .panelReset s = .next t ∧ engineRun n t = .next u ∧
      u = { s with
        busy := false, done := true, err := false, errClass := .noError, errCode := .noError, seq := .idle
        pstate := .resetting, rstOut := true, trace := u.trace
        op := u.op, acceptPState := u.acceptPState, acceptMem := u.acceptMem } ∧
      busTrace u = busTrace s ++
        [.rst true, .delay .rstH1, .rst false, .delay .rstL, .rst true, .delay .rstH2]

/-- R270, R294: PANEL_INIT from Resetting issues exactly INIT_SEQ's frames and polls, and PANEL_SLEEP from
Initialized SLEEP_SEQ's; PSTATE is then Initialized or Sleeping, and RESULT is unchanged. The pending busy levels
end each wait of the list (if it has none, every list of levels does). -/
def Obligations.PanelInitAndSleepRunTheirLists : Prop :=
  ∀ (s : State) (ev : List BusEvent) (rest : List Level), s.busy = false →
    (s.pstate = .resetting →
      listEvents s.par.busyActive s.busyTimeout.toNat s.par.initSeq s.levels = some (ev, rest, false) →
      ∃ t n u, exec .panelInit s = .next t ∧ engineRun n t = .next u ∧
        DoneOnBus .initialized s.result s u ∧ busTrace u = busTrace s ++ ev ∧ u.levels = rest ∧ u.free = s.free) ∧
    (s.pstate = .initialized →
      listEvents s.par.busyActive s.busyTimeout.toNat s.par.sleepSeq s.levels = some (ev, rest, false) →
      ∃ t n u, exec .panelSleep s = .next t ∧ engineRun n t = .next u ∧
        DoneOnBus .sleeping s.result s u ∧ busTrace u = busTrace s ++ ev ∧ u.levels = rest ∧ u.free = s.free)

/-- R276, R277: PANEL_DISPLAY_FULL of a valid buffer sends CMD_DATA_START, every byte of the buffer and then
REFRESH_SEQ; PSTATE is Initialized again and RESULT is N. -/
def Obligations.PanelFullSendsTheBufferAndRefreshes : Prop :=
  ∀ (s : State) (ev : List BusEvent) (rest : List Level), s.busy = false → FullOk s →
    (∀ j, j < (liveOp s).len → validPair (s.mem.read ((liveOp s).src + j)) = true) →
    listEvents s.par.busyActive s.busyTimeout.toNat s.par.refreshSeq s.levels = some (ev, rest, false) →
    ∃ t n u, exec .panelFull s = .next t ∧ engineRun n t = .next u ∧
      DoneOnBus .initialized (BitVec.ofNat 32 (liveOp s).len) s u ∧
      busTrace u = busTrace s ++ [.cmd s.par.cmdDataStart] ++
        dataEvents (liveOp s).len (fun j => s.mem.read ((liveOp s).src + j)) ++ ev ∧
      u.levels = rest ∧ u.free = s.free

/-- R282, R284: PANEL_DISPLAY_PARTIAL of a valid buffer sends the window frame first: CMD_PTL_WINDOW and the start
and end column and the start and end row, both ends inclusive, high byte first; then all as for a full frame. -/
def Obligations.PanelPartialSendsTheWindowFirst : Prop :=
  ∀ (s : State) (ev : List BusEvent) (rest : List Level), s.busy = false → s.par.WellFormed = true → PartialOk s →
    (∀ j, j < (liveOp s).len → validPair (s.mem.read ((liveOp s).src + j)) = true) →
    listEvents s.par.busyActive s.busyTimeout.toNat s.par.refreshSeq s.levels = some (ev, rest, false) →
    let o := liveOp s
    let hi : Nat → BusEvent := fun n => .data (BitVec.ofNat 8 (n / 256))
    let lo : Nat → BusEvent := fun n => .data (BitVec.ofNat 8 (n % 256))
    let x1 := o.winX + o.winW - 1
    let y1 := o.winY + o.winH - 1
    ∃ t n u, exec .panelPartial s = .next t ∧ engineRun n t = .next u ∧
      DoneOnBus .initialized (BitVec.ofNat 32 o.len) s u ∧
      busTrace u = busTrace s ++
        [.cmd s.par.cmdPtlWindow, hi o.winX, lo o.winX, hi x1, lo x1, hi o.winY, lo o.winY, hi y1, lo y1,
          .cmd s.par.cmdDataStart] ++
        dataEvents o.len (fun j => s.mem.read (o.src + j)) ++ ev ∧
      u.levels = rest ∧ u.free = s.free

/-- R288, R289: PANEL_DRAW_BLANK sends CMD_DATA_START and rows·ceil(cols/2) bytes with its code in both nibbles,
then REFRESH_SEQ; it reads no memory; RESULT is the number of bytes. -/
def Obligations.PanelBlankSendsTheFillByte : Prop :=
  ∀ (s : State) (c : Code) (ev : List BusEvent) (rest : List Level), s.busy = false → BlankOk c s →
    listEvents s.par.busyActive s.busyTimeout.toNat s.par.refreshSeq s.levels = some (ev, rest, false) →
    let o := liveOp s
    let n := o.winH * ceilDiv o.winW 2
    ∃ t m u, exec (.panelBlank c) s = .next t ∧ engineRun m t = .next u ∧
      DoneOnBus .initialized (BitVec.ofNat 32 n) s u ∧
      busTrace u = busTrace s ++ [.cmd s.par.cmdDataStart] ++
        List.replicate n (.data (BitVec.ofNat 8 (16 * c.toNat + c.toNat))) ++ ev ∧
      u.levels = rest ∧ u.free = s.free

/-- R256, R315, R318 (and R297, the spec's own derivation): a busy-wait that reads busy BUSY_TIMEOUT times in a
row ends each of the five commands with HardwareTimeoutError(BUSY_TIMEOUT): PSTATE is what it was at accept,
RESULT and memory are unchanged, and exactly the events issued up to that poll are on the bus. -/
def Obligations.TimeoutRestoresThePanelState : Prop :=
  ∀ (s : State) (i : Instr) (todo : List PanelStep) (before ev : List BusEvent) (rest : List Level), s.busy = false →
    (i = .panelInit ∧ s.pstate = .resetting ∧ todo = s.par.initSeq ∧ before = [] ∨
      i = .panelSleep ∧ s.pstate = .initialized ∧ todo = s.par.sleepSeq ∧ before = [] ∨
      (∃ c, i = .panelBlank c ∧ BlankOk c s ∧ todo = s.par.refreshSeq ∧
        before = .cmd s.par.cmdDataStart ::
          dataEvents ((liveOp s).winH * ceilDiv (liveOp s).winW 2) (fun _ => fillByte c)) ∨
      (∀ j, j < (liveOp s).len → validPair (s.mem.read ((liveOp s).src + j)) = true) ∧ todo = s.par.refreshSeq ∧
        (i = .panelFull ∧ FullOk s ∧
            before = .cmd s.par.cmdDataStart ::
              dataEvents (liveOp s).len (fun j => s.mem.read ((liveOp s).src + j)) ∨
          i = .panelPartial ∧ PartialOk s ∧
            before = windowFrame s.par (liveOp s) ++ .cmd s.par.cmdDataStart ::
              dataEvents (liveOp s).len (fun j => s.mem.read ((liveOp s).src + j)))) →
    listEvents s.par.busyActive s.busyTimeout.toNat todo s.levels = some (ev, rest, true) →
    ∃ t n u, exec i s = .next t ∧ engineRun n t = .next u ∧ FailedAs .busyTimeout s u ∧
      busTrace u = busTrace s ++ before ++ ev ∧ u.levels = rest ∧ u.free = s.free

/-- R256 (and R299, the spec's own derivation): with BUSY_TIMEOUT 0 a busy-wait on a line that reads busy goes on:
after any number n of busy readings the command still runs, and its wait has added n polls and n delays to the
trace. -/
def Obligations.UnboundedWaitNeverEndsOnABusyLine : Prop :=
  ∀ (s : State) (todo : List PanelStep) (n : Nat) (more : List Level), Inv s → s.busy = true →
    s.seq = .poll todo → s.op.timeout = 0 → s.levels = List.replicate n s.par.busyActive ++ more →
    ∃ u, engineRun (2 * n) s = .next u ∧ u.busy = true ∧ u.seq = .poll todo ∧ u.pstate = s.pstate ∧
      u.levels = more ∧
      busTrace u = busTrace s ++
        (List.replicate n [BusEvent.poll s.par.busyActive, .delay .pollInterval]).flatten

/-- R256 (and R373, the spec's own derivation): every running command ends after finitely many engine steps,
whatever the panel answers, if BUSY_TIMEOUT is at least 1 or the steps it still has to run contain no `WaitBusy`.
-/
def Obligations.RunningCommandsEnd : Prop :=
  ∀ (s : State) (i : Instr), Inv s → s.busy = true → decode s.op.word = .ok i →
    (.waitBusy ∈ stepsToRun i s → 1 ≤ s.op.timeout) →
    ∃ n u, engineRun n s = .next u ∧ u.busy = false ∧ (u.done = true ∨ u.err = true)

/-! ## The whole machine -/

/-- R63, R350: the state after reset. (The palette triples are the spec's general knowledge, PRESUMED, assumption
log 2; the value of PANEL_DIM is that of the model's parameters at reset, decision D25, assumption log 1.) -/
def Obligations.ResetStateHoldsTheResetValues : Prop :=
  let s := State.reset
  statusWord s = 0#32 ∧ s.pstate = .uninitialized ∧
  s.imgDim = 0#32 ∧ s.srcAddr = 0#32 ∧ s.dstAddr = 0#32 ∧ s.winXY = 0#32 ∧ s.winWH = 0#32 ∧
  s.matchRgb = 0#24 ∧ s.bufLen = 0#32 ∧ s.busyTimeout = 0#32 ∧ s.result = 0#32 ∧ s.rstOut = true ∧
  regRead s 0x2C = 0x01E00320#32 ∧ regRead s 0x30 = 0x44504531#32 ∧
  s.par.palette =
    { black := ⟨0, 0, 0⟩, white := ⟨255, 255, 255⟩, yellow := ⟨255, 255, 0⟩, red := ⟨255, 0, 0⟩,
      blue := ⟨0, 0, 255⟩, green := ⟨0, 255, 0⟩ }

/-- The invariant and the data property hold after reset. (The invariant is the model's, read from R13, R38, R40,
R81, R263; the parameters' values are of assumption logs 1 and 2.) -/
def Obligations.ResetMeetsTheInvariant : Prop := Inv State.reset ∧ RunData State.reset

/-- Every step of the machine, of either agent, keeps the invariant: legal parameters, canonical memory inside
MEM_SIZE, an error class that agrees with the code, DONE and ERR never both 1 (R38), a resting PSTATE while BUSY is
0 (R40), and a running command whose position, PSTATE and ranges are in order (R95, R96, R259, R261). And no step
changes a parameter. -/
def Obligations.EveryStepKeepsTheInvariant : Prop :=
  ∀ s t : State, Inv s → step s = .next t → Inv t ∧ t.par = s.par

/-- Every step keeps the data property, under any interleaving of host and engine: the source of a running command
is as at accept, and each destination byte holds its old or, once written, its new value (R99, R100, R362). -/
def Obligations.EveryStepKeepsTheRunData : Prop :=
  ∀ s t : State, Inv s → RunData s → step s = .next t → RunData t

/-- R62, R100, R230, R314 (and R108, the spec's own derivation): when a step completes a running command, under
any interleaving, all its writes are there: each destination byte is the one the command computes from data memory
as it was at accept, or, if it failed, the old one. -/
def Obligations.CompletionLeavesAllWrites : Prop :=
  ∀ (s t : State) (i : Instr), Inv s → RunData s → s.busy = true → decode s.op.word = .ok i →
    nextAgent s = .engine → step s = .next t → t.busy = false →
    (t.done = true ∧ t.err = false ∧ ∀ j, j < dstLen i s.op →
      t.mem.read (s.op.dst + j) = newByte i s.op s.par.palette s.acceptMem (s.op.dst + j)) ∨
    (t.err = true ∧ t.done = false ∧ ∀ j, j < dstLen i s.op →
      t.mem.read (s.op.dst + j) = s.acceptMem.read (s.op.dst + j))

/-- R81: from a state that meets the invariant the engine always has a step: it forms no address outside data
memory and reaches no stray position. (The stray position is the model's own fault, assumption log 17.) -/
def Obligations.TheEngineNeverStops : Prop :=
  ∀ s : State, Inv s → ∃ t, engineStep s = .next t

/-- R82, R184: an engine step changes data memory only for QUANTIZE and PACK, and then only inside the destination
range. -/
def Obligations.EngineWritesOnlyItsDestination : Prop :=
  ∀ (s t : State) (i : Instr), Memory.wf s.mem → s.busy = true → decode s.op.word = .ok i →
    engineStep s = .next t →
    (isQuantize i = false → i ≠ .pack → t.mem = s.mem) ∧
    (∀ a, inDst i s.op a = false → t.mem.read a = s.mem.read a)

/-- R250, R57, R82: only panel commands change PSTATE while they run: an engine step of QUANTIZE or PACK leaves
it, and uses no bus (R180, R230), so it leaves the bus trace, RST_OUT and the pending busy levels as well. MATCH
has no engine step: its accept is the whole of it. -/
def Obligations.OnlyPanelCommandsTouchThePanel : Prop :=
  ∀ (s t : State) (i : Instr), Inv s → s.busy = true → decode s.op.word = .ok i → isPanel i = false →
    engineStep s = .next t → t.pstate = s.pstate ∧ t.trace = s.trace ∧ t.rstOut = s.rstOut ∧ t.levels = s.levels

/-- R40, R350: no step but an engine reset makes PSTATE Uninitialized. -/
def Obligations.OnlyEngineResetGivesUninitialized : Prop :=
  ∀ s t : State, Inv s → step s = .next t → t.pstate = .uninitialized →
    s.pstate = .uninitialized ∨ HostWillDo .powerCycle s

/-- R41: DROPPED becomes 1 when the host stores to CMD while BUSY is 1, and only then; it becomes 0 when the host
stores a word with bit 11 to STATUS or resets the engine, and only then. -/
def Obligations.DroppedStaysUntilCleared : Prop :=
  ∀ s t : State, step s = .next t →
    let written := s.busy = true ∧ ∃ w : Word, HostWillDo (.store 0x00 4 w) s
    let cleared := HostWillDo .powerCycle s ∨ ∃ v : Word, v.getLsbD 11 = true ∧ HostWillDo (.store 0x04 4 v) s
    (written → t.dropped = true) ∧ (cleared → t.dropped = false) ∧
    (¬ written → ¬ cleared → t.dropped = s.dropped)

/-- R51, R62 (and R367, the spec's own derivation): an engine step changes RESULT only when it completes a command
without error, and then only for QUANTIZE, PACK and the three transfer commands. -/
def Obligations.ResultChangesOnlyAtCompletion : Prop :=
  ∀ s t : State, engineStep s = .next t → t.result ≠ s.result →
    t.busy = false ∧ t.done = true ∧
    ∃ i, decode s.op.word = .ok i ∧ i ≠ .panelReset ∧ i ≠ .panelInit ∧ i ≠ .panelSleep ∧ i ≠ .matchRgb

/-- R57: RST_OUT changes only in an engine step of PANEL_RESET or at an engine reset. -/
def Obligations.OnlyPanelResetMovesTheResetLine : Prop :=
  ∀ s t : State, step s = .next t → t.rstOut ≠ s.rstOut →
    (nextAgent s = .engine ∧ s.busy = true ∧ decode s.op.word = .ok .panelReset) ∨ HostWillDo .powerCycle s

/-- R350, R351, R352: an engine reset gives every register its reset value, ends a running command and makes no
bus event. With BUSY 0 all of memory is as it was; during a command each byte of its destination range then holds
its old or its new value, and every other byte is as it was. (That memory with BUSY 0, the bytes outside the
destination and the parameters survive is the model's choice, assumption log 18. Which of the two values a byte
holds is a free value, assumption log 7.) -/
def Obligations.EngineResetClearsTheEngine : Prop :=
  ∀ s : State, Memory.wf s.mem →
    ∃ t, hostAccess .powerCycle s = .next t ∧
      statusWord t = 0#32 ∧ t.pstate = .uninitialized ∧ t.imgDim = 0#32 ∧ t.srcAddr = 0#32 ∧ t.dstAddr = 0#32 ∧
      t.winXY = 0#32 ∧ t.winWH = 0#32 ∧ t.matchRgb = 0#24 ∧ t.bufLen = 0#32 ∧ t.busyTimeout = 0#32 ∧
      t.result = 0#32 ∧ t.rstOut = true ∧ t.trace = s.trace ∧ t.par = s.par ∧ Memory.wf t.mem ∧
      (s.busy = false → t.mem = s.mem) ∧
      (∀ i, s.busy = true → decode s.op.word = .ok i → ∀ a,
        (inDst i s.op a = true →
          t.mem.read a = s.acceptMem.read a ∨ t.mem.read a = newByte i s.op s.par.palette s.acceptMem a) ∧
        (inDst i s.op a = false → t.mem.read a = s.mem.read a))

/-- R100, R362: while a command runs, a host load of a destination byte returns the old or the new value, a load
of any other byte its value, and a host store to a byte of either range is refused. (Which of the two values a
load returns is a free value, assumption log 6.) -/
def Obligations.HostAccessToARunningRange : Prop :=
  ∀ (s : State) (i : Instr) (a : Nat) (b : Byte), s.busy = true → decode s.op.word = .ok i → a < s.par.memSize →
    (∃ t v, hostAccess (.memLoad a) s = .next t ∧ t.accesses = .memLoaded a v :: s.accesses ∧
      (inDst i s.op a = true →
        v = s.acceptMem.read a ∨ v = newByte i s.op s.par.palette s.acceptMem a) ∧
      (inDst i s.op a = false → v = s.mem.read a)) ∧
    (inSrc i s.op a = true ∨ inDst i s.op a = true →
      hostAccess (.memStore a b) s = .refused (.storeToRunningRange a))

/-- R81, R93: a host store to a byte of data memory outside a running command's ranges, if one runs, writes that
byte alone and changes nothing else, and a host access at or above MEM_SIZE finds no byte. (That a host access
there is a fault is the model's choice, assumption log 12.) -/
def Obligations.HostStoreWritesOneByte : Prop :=
  ∀ (s : State) (a : Nat) (b : Byte),
    (Memory.wf s.mem → inRunningRange s a = false → a < s.par.memSize →
      ∃ t, hostAccess (.memStore a b) s = .next t ∧
        t = { s with mem := t.mem, accesses := .memStored a b :: s.accesses } ∧
        t.mem.read a = b ∧ (∀ c, c ≠ a → t.mem.read c = s.mem.read c)) ∧
    (s.par.memSize ≤ a →
      hostAccess (.memStore a b) s = .fault (.noSuchByte a) ∧ hostAccess (.memLoad a) s = .fault (.noSuchByte a))

/-- R93, R133: a host load changes nothing but the record of accesses. A register load records the register's value; a
data-memory load of a byte that is no destination byte of a running command records that byte, and of one that is, it
also uses up a free value; `wait` loads STATUS, and stands for itself again exactly while BUSY is 1. A step of the
host's turn is its next access. (The record, the list of accesses and the free-value counter are the model's form of
the host, assumption logs 6 and 11.) -/
def Obligations.HostLoadsChangeNothing : Prop :=
  ∀ s : State,
    (∀ off, off % 4 = 0 → off < 256 →
      hostAccess (.load off 4) s = .next { s with accesses := .loaded off (regRead s off) :: s.accesses }) ∧
    (∀ a, a < s.par.memSize → inRunningDst s a = false →
      hostAccess (.memLoad a) s = .next { s with accesses := .memLoaded a (s.mem.read a) :: s.accesses }) ∧
    (∀ a, a < s.par.memSize → inRunningDst s a = true →
      ∃ v, hostAccess (.memLoad a) s =
        .next { s with accesses := .memLoaded a v :: s.accesses, free := s.free + 1 }) ∧
    (s.busy = false →
      hostAccess .wait s = .next { s with accesses := .loaded 0x04 (statusWord s) :: s.accesses }) ∧
    (s.busy = true →
      hostAccess .wait s =
        .next { s with accesses := .loaded 0x04 (statusWord s) :: s.accesses, host := .wait :: s.host }) ∧
    (∀ o rest, nextAgent s = .host → s.host = o :: rest →
      step s = hostAccess o { s with turns := s.turns.tail, host := rest })
end

