-- ==== Sys2Proof/Laws/Decode.lean ====
section
/-! SUPPORT. The decoder and the encoder: a word is made of its fields, and what each decode needs. -/

namespace Sys2Proof

/-- The word of a command decodes to it. -/
@[simp] theorem decode_encode (i : Instr) : decode (encode i) = .ok i := by
  cases i with
  | panelBlank c => revert c; decide
  | _ => decide

/-- A word is made of its five fields (30_encoding.md R120). -/
theorem word_toNat_fields (w : Word) :
    w.toNat = (opcField w).toNat + 16 * (modeField w).toNat + 128 * (w.extractLsb' 7 1).toNat +
      256 * (codeField w).toNat + 2048 * (w.extractLsb' 11 21).toNat := by
  have h := w.isLt
  simp only [opcField, modeField, codeField, BitVec.extractLsb'_toNat, Nat.shiftRight_eq_div_pow]
  omega

/-- The reserved bits are clear exactly if both reserved fields are 0. -/
theorem reservedClear_iff (w : Word) :
    reservedClear w = true ↔ (w.extractLsb' 7 1).toNat = 0 ∧ (w.extractLsb' 11 21).toNat = 0 := by
  simp [reservedClear, ← BitVec.toNat_inj]

/-- The opcode is defined exactly if it is 1 to 9. -/
theorem opcDefined_iff (o : BitVec 4) : opcDefined o = true ↔ 1 ≤ o.toNat ∧ o.toNat ≤ 9 := by
  simp [opcDefined]

/-- The MODE and CODE tests of R121 as propositions. -/
theorem strayMode_iff (w : Word) : (opcField w != 2 && modeField w != 0) = true ↔
    (opcField w).toNat ≠ 2 ∧ (modeField w).toNat ≠ 0 := by
  simp [← BitVec.toNat_inj]

theorem strayCode_iff (w : Word) : (opcField w != 8 && codeField w != 0) = true ↔
    (opcField w).toNat ≠ 8 ∧ (codeField w).toNat ≠ 0 := by
  simp [← BitVec.toNat_inj]

/-- The decoder's five cases, with its tests on numbers (R121). -/
theorem decode_eq (w : Word) :
    decode w =
      if ¬ ((w.extractLsb' 7 1).toNat = 0 ∧ (w.extractLsb' 11 21).toNat = 0) then .error .badCommand
      else if ¬ (1 ≤ (opcField w).toNat ∧ (opcField w).toNat ≤ 9) then .error .badCommand
      else if (opcField w).toNat ≠ 2 ∧ (modeField w).toNat ≠ 0 then .error .badCommand
      else if (opcField w).toNat ≠ 8 ∧ (codeField w).toNat ≠ 0 then .error .badCommand
      else decodeOpc (opcField w) (modeField w) (codeField w) := by
  simp only [decode, Bool.not_eq_true', ← Bool.not_eq_true, reservedClear_iff, opcDefined_iff, strayMode_iff,
    strayCode_iff]

/-- What a QUANTIZE word's mode decodes to. -/
theorem decodeMode_eq (m : BitVec 3) :
    decodeMode m = if m.toNat = 0 then .ok .quantizeNone else if m.toNat = 1 then .ok .quantizeFs
      else if m.toNat = 2 then .ok .quantizeHalftone else if m.toNat = 3 then .ok .quantizeOrdered
      else if m.toNat = 4 then .ok .quantizePopart else .error .badMode := by
  revert m; decide

end Sys2Proof
end

