-- ==== Sys2Proof/Laws/State.lean ====
section
/-! SUPPORT. What each named update of the state does to each field: one lemma for each field, true by
rfl. A proof rewrites with these and does not unfold the update. -/

namespace Sys2Proof.Machine

@[simp] theorem emit_par (e : BusEvent) (s : State) :
    (emit e s).par = s.par := rfl
@[simp] theorem emit_mem (e : BusEvent) (s : State) :
    (emit e s).mem = s.mem := rfl
@[simp] theorem emit_busy (e : BusEvent) (s : State) :
    (emit e s).busy = s.busy := rfl
@[simp] theorem emit_done (e : BusEvent) (s : State) :
    (emit e s).done = s.done := rfl
@[simp] theorem emit_err (e : BusEvent) (s : State) :
    (emit e s).err = s.err := rfl
@[simp] theorem emit_errClass (e : BusEvent) (s : State) :
    (emit e s).errClass = s.errClass := rfl
@[simp] theorem emit_pstate (e : BusEvent) (s : State) :
    (emit e s).pstate = s.pstate := rfl
@[simp] theorem emit_dropped (e : BusEvent) (s : State) :
    (emit e s).dropped = s.dropped := rfl
@[simp] theorem emit_errCode (e : BusEvent) (s : State) :
    (emit e s).errCode = s.errCode := rfl
@[simp] theorem emit_imgDim (e : BusEvent) (s : State) :
    (emit e s).imgDim = s.imgDim := rfl
@[simp] theorem emit_srcAddr (e : BusEvent) (s : State) :
    (emit e s).srcAddr = s.srcAddr := rfl
@[simp] theorem emit_dstAddr (e : BusEvent) (s : State) :
    (emit e s).dstAddr = s.dstAddr := rfl
@[simp] theorem emit_winXY (e : BusEvent) (s : State) :
    (emit e s).winXY = s.winXY := rfl
@[simp] theorem emit_winWH (e : BusEvent) (s : State) :
    (emit e s).winWH = s.winWH := rfl
@[simp] theorem emit_matchRgb (e : BusEvent) (s : State) :
    (emit e s).matchRgb = s.matchRgb := rfl
@[simp] theorem emit_result (e : BusEvent) (s : State) :
    (emit e s).result = s.result := rfl
@[simp] theorem emit_bufLen (e : BusEvent) (s : State) :
    (emit e s).bufLen = s.bufLen := rfl
@[simp] theorem emit_busyTimeout (e : BusEvent) (s : State) :
    (emit e s).busyTimeout = s.busyTimeout := rfl
@[simp] theorem emit_op (e : BusEvent) (s : State) :
    (emit e s).op = s.op := rfl
@[simp] theorem emit_seq (e : BusEvent) (s : State) :
    (emit e s).seq = s.seq := rfl
@[simp] theorem emit_rstOut (e : BusEvent) (s : State) :
    (emit e s).rstOut = s.rstOut := rfl
@[simp] theorem emit_fs (e : BusEvent) (s : State) :
    (emit e s).fs = s.fs := rfl
@[simp] theorem emit_cellSums (e : BusEvent) (s : State) :
    (emit e s).cellSums = s.cellSums := rfl
@[simp] theorem emit_tileVotes (e : BusEvent) (s : State) :
    (emit e s).tileVotes = s.tileVotes := rfl
@[simp] theorem emit_polls (e : BusEvent) (s : State) :
    (emit e s).polls = s.polls := rfl
@[simp] theorem emit_acceptPState (e : BusEvent) (s : State) :
    (emit e s).acceptPState = s.acceptPState := rfl
@[simp] theorem emit_acceptMem (e : BusEvent) (s : State) :
    (emit e s).acceptMem = s.acceptMem := rfl
@[simp] theorem emit_free (e : BusEvent) (s : State) :
    (emit e s).free = s.free := rfl
@[simp] theorem emit_host (e : BusEvent) (s : State) :
    (emit e s).host = s.host := rfl
@[simp] theorem emit_turns (e : BusEvent) (s : State) :
    (emit e s).turns = s.turns := rfl
@[simp] theorem emit_levels (e : BusEvent) (s : State) :
    (emit e s).levels = s.levels := rfl
@[simp] theorem emit_trace (e : BusEvent) (s : State) :
    (emit e s).trace = e :: s.trace := rfl
@[simp] theorem emit_accesses (e : BusEvent) (s : State) :
    (emit e s).accesses = s.accesses := rfl

@[simp] theorem setResetLine_par (l : Level) (s : State) :
    (setResetLine l s).par = s.par := rfl
@[simp] theorem setResetLine_mem (l : Level) (s : State) :
    (setResetLine l s).mem = s.mem := rfl
@[simp] theorem setResetLine_busy (l : Level) (s : State) :
    (setResetLine l s).busy = s.busy := rfl
@[simp] theorem setResetLine_done (l : Level) (s : State) :
    (setResetLine l s).done = s.done := rfl
@[simp] theorem setResetLine_err (l : Level) (s : State) :
    (setResetLine l s).err = s.err := rfl
@[simp] theorem setResetLine_errClass (l : Level) (s : State) :
    (setResetLine l s).errClass = s.errClass := rfl
@[simp] theorem setResetLine_pstate (l : Level) (s : State) :
    (setResetLine l s).pstate = s.pstate := rfl
@[simp] theorem setResetLine_dropped (l : Level) (s : State) :
    (setResetLine l s).dropped = s.dropped := rfl
@[simp] theorem setResetLine_errCode (l : Level) (s : State) :
    (setResetLine l s).errCode = s.errCode := rfl
@[simp] theorem setResetLine_imgDim (l : Level) (s : State) :
    (setResetLine l s).imgDim = s.imgDim := rfl
@[simp] theorem setResetLine_srcAddr (l : Level) (s : State) :
    (setResetLine l s).srcAddr = s.srcAddr := rfl
@[simp] theorem setResetLine_dstAddr (l : Level) (s : State) :
    (setResetLine l s).dstAddr = s.dstAddr := rfl
@[simp] theorem setResetLine_winXY (l : Level) (s : State) :
    (setResetLine l s).winXY = s.winXY := rfl
@[simp] theorem setResetLine_winWH (l : Level) (s : State) :
    (setResetLine l s).winWH = s.winWH := rfl
@[simp] theorem setResetLine_matchRgb (l : Level) (s : State) :
    (setResetLine l s).matchRgb = s.matchRgb := rfl
@[simp] theorem setResetLine_result (l : Level) (s : State) :
    (setResetLine l s).result = s.result := rfl
@[simp] theorem setResetLine_bufLen (l : Level) (s : State) :
    (setResetLine l s).bufLen = s.bufLen := rfl
@[simp] theorem setResetLine_busyTimeout (l : Level) (s : State) :
    (setResetLine l s).busyTimeout = s.busyTimeout := rfl
@[simp] theorem setResetLine_op (l : Level) (s : State) :
    (setResetLine l s).op = s.op := rfl
@[simp] theorem setResetLine_seq (l : Level) (s : State) :
    (setResetLine l s).seq = s.seq := rfl
@[simp] theorem setResetLine_rstOut (l : Level) (s : State) :
    (setResetLine l s).rstOut = l := rfl
@[simp] theorem setResetLine_fs (l : Level) (s : State) :
    (setResetLine l s).fs = s.fs := rfl
@[simp] theorem setResetLine_cellSums (l : Level) (s : State) :
    (setResetLine l s).cellSums = s.cellSums := rfl
@[simp] theorem setResetLine_tileVotes (l : Level) (s : State) :
    (setResetLine l s).tileVotes = s.tileVotes := rfl
@[simp] theorem setResetLine_polls (l : Level) (s : State) :
    (setResetLine l s).polls = s.polls := rfl
@[simp] theorem setResetLine_acceptPState (l : Level) (s : State) :
    (setResetLine l s).acceptPState = s.acceptPState := rfl
@[simp] theorem setResetLine_acceptMem (l : Level) (s : State) :
    (setResetLine l s).acceptMem = s.acceptMem := rfl
@[simp] theorem setResetLine_free (l : Level) (s : State) :
    (setResetLine l s).free = s.free := rfl
@[simp] theorem setResetLine_host (l : Level) (s : State) :
    (setResetLine l s).host = s.host := rfl
@[simp] theorem setResetLine_turns (l : Level) (s : State) :
    (setResetLine l s).turns = s.turns := rfl
@[simp] theorem setResetLine_levels (l : Level) (s : State) :
    (setResetLine l s).levels = s.levels := rfl
@[simp] theorem setResetLine_trace (l : Level) (s : State) :
    (setResetLine l s).trace = .rst l :: s.trace := rfl
@[simp] theorem setResetLine_accesses (l : Level) (s : State) :
    (setResetLine l s).accesses = s.accesses := rfl

@[simp] theorem clearFlags_par (s : State) :
    (clearFlags s).par = s.par := rfl
@[simp] theorem clearFlags_mem (s : State) :
    (clearFlags s).mem = s.mem := rfl
@[simp] theorem clearFlags_busy (s : State) :
    (clearFlags s).busy = s.busy := rfl
@[simp] theorem clearFlags_done (s : State) :
    (clearFlags s).done = false := rfl
@[simp] theorem clearFlags_err (s : State) :
    (clearFlags s).err = false := rfl
@[simp] theorem clearFlags_errClass (s : State) :
    (clearFlags s).errClass = .noError := rfl
@[simp] theorem clearFlags_pstate (s : State) :
    (clearFlags s).pstate = s.pstate := rfl
@[simp] theorem clearFlags_dropped (s : State) :
    (clearFlags s).dropped = s.dropped := rfl
@[simp] theorem clearFlags_errCode (s : State) :
    (clearFlags s).errCode = .noError := rfl
@[simp] theorem clearFlags_imgDim (s : State) :
    (clearFlags s).imgDim = s.imgDim := rfl
@[simp] theorem clearFlags_srcAddr (s : State) :
    (clearFlags s).srcAddr = s.srcAddr := rfl
@[simp] theorem clearFlags_dstAddr (s : State) :
    (clearFlags s).dstAddr = s.dstAddr := rfl
@[simp] theorem clearFlags_winXY (s : State) :
    (clearFlags s).winXY = s.winXY := rfl
@[simp] theorem clearFlags_winWH (s : State) :
    (clearFlags s).winWH = s.winWH := rfl
@[simp] theorem clearFlags_matchRgb (s : State) :
    (clearFlags s).matchRgb = s.matchRgb := rfl
@[simp] theorem clearFlags_result (s : State) :
    (clearFlags s).result = s.result := rfl
@[simp] theorem clearFlags_bufLen (s : State) :
    (clearFlags s).bufLen = s.bufLen := rfl
@[simp] theorem clearFlags_busyTimeout (s : State) :
    (clearFlags s).busyTimeout = s.busyTimeout := rfl
@[simp] theorem clearFlags_op (s : State) :
    (clearFlags s).op = s.op := rfl
@[simp] theorem clearFlags_seq (s : State) :
    (clearFlags s).seq = s.seq := rfl
@[simp] theorem clearFlags_rstOut (s : State) :
    (clearFlags s).rstOut = s.rstOut := rfl
@[simp] theorem clearFlags_fs (s : State) :
    (clearFlags s).fs = s.fs := rfl
@[simp] theorem clearFlags_cellSums (s : State) :
    (clearFlags s).cellSums = s.cellSums := rfl
@[simp] theorem clearFlags_tileVotes (s : State) :
    (clearFlags s).tileVotes = s.tileVotes := rfl
@[simp] theorem clearFlags_polls (s : State) :
    (clearFlags s).polls = s.polls := rfl
@[simp] theorem clearFlags_acceptPState (s : State) :
    (clearFlags s).acceptPState = s.acceptPState := rfl
@[simp] theorem clearFlags_acceptMem (s : State) :
    (clearFlags s).acceptMem = s.acceptMem := rfl
@[simp] theorem clearFlags_free (s : State) :
    (clearFlags s).free = s.free := rfl
@[simp] theorem clearFlags_host (s : State) :
    (clearFlags s).host = s.host := rfl
@[simp] theorem clearFlags_turns (s : State) :
    (clearFlags s).turns = s.turns := rfl
@[simp] theorem clearFlags_levels (s : State) :
    (clearFlags s).levels = s.levels := rfl
@[simp] theorem clearFlags_trace (s : State) :
    (clearFlags s).trace = s.trace := rfl
@[simp] theorem clearFlags_accesses (s : State) :
    (clearFlags s).accesses = s.accesses := rfl

@[simp] theorem latch_par (w : Word) (s : State) :
    (latch w s).par = s.par := rfl
@[simp] theorem latch_mem (w : Word) (s : State) :
    (latch w s).mem = s.mem := rfl
@[simp] theorem latch_busy (w : Word) (s : State) :
    (latch w s).busy = s.busy := rfl
@[simp] theorem latch_done (w : Word) (s : State) :
    (latch w s).done = s.done := rfl
@[simp] theorem latch_err (w : Word) (s : State) :
    (latch w s).err = s.err := rfl
@[simp] theorem latch_errClass (w : Word) (s : State) :
    (latch w s).errClass = s.errClass := rfl
@[simp] theorem latch_pstate (w : Word) (s : State) :
    (latch w s).pstate = s.pstate := rfl
@[simp] theorem latch_dropped (w : Word) (s : State) :
    (latch w s).dropped = s.dropped := rfl
@[simp] theorem latch_errCode (w : Word) (s : State) :
    (latch w s).errCode = s.errCode := rfl
@[simp] theorem latch_imgDim (w : Word) (s : State) :
    (latch w s).imgDim = s.imgDim := rfl
@[simp] theorem latch_srcAddr (w : Word) (s : State) :
    (latch w s).srcAddr = s.srcAddr := rfl
@[simp] theorem latch_dstAddr (w : Word) (s : State) :
    (latch w s).dstAddr = s.dstAddr := rfl
@[simp] theorem latch_winXY (w : Word) (s : State) :
    (latch w s).winXY = s.winXY := rfl
@[simp] theorem latch_winWH (w : Word) (s : State) :
    (latch w s).winWH = s.winWH := rfl
@[simp] theorem latch_matchRgb (w : Word) (s : State) :
    (latch w s).matchRgb = s.matchRgb := rfl
@[simp] theorem latch_result (w : Word) (s : State) :
    (latch w s).result = s.result := rfl
@[simp] theorem latch_bufLen (w : Word) (s : State) :
    (latch w s).bufLen = s.bufLen := rfl
@[simp] theorem latch_busyTimeout (w : Word) (s : State) :
    (latch w s).busyTimeout = s.busyTimeout := rfl
@[simp] theorem latch_op (w : Word) (s : State) :
    (latch w s).op = operandsOf w s := rfl
@[simp] theorem latch_seq (w : Word) (s : State) :
    (latch w s).seq = s.seq := rfl
@[simp] theorem latch_rstOut (w : Word) (s : State) :
    (latch w s).rstOut = s.rstOut := rfl
@[simp] theorem latch_fs (w : Word) (s : State) :
    (latch w s).fs = s.fs := rfl
@[simp] theorem latch_cellSums (w : Word) (s : State) :
    (latch w s).cellSums = s.cellSums := rfl
@[simp] theorem latch_tileVotes (w : Word) (s : State) :
    (latch w s).tileVotes = s.tileVotes := rfl
@[simp] theorem latch_polls (w : Word) (s : State) :
    (latch w s).polls = s.polls := rfl
@[simp] theorem latch_acceptPState (w : Word) (s : State) :
    (latch w s).acceptPState = s.pstate := rfl
@[simp] theorem latch_acceptMem (w : Word) (s : State) :
    (latch w s).acceptMem = s.mem := rfl
@[simp] theorem latch_free (w : Word) (s : State) :
    (latch w s).free = s.free := rfl
@[simp] theorem latch_host (w : Word) (s : State) :
    (latch w s).host = s.host := rfl
@[simp] theorem latch_turns (w : Word) (s : State) :
    (latch w s).turns = s.turns := rfl
@[simp] theorem latch_levels (w : Word) (s : State) :
    (latch w s).levels = s.levels := rfl
@[simp] theorem latch_trace (w : Word) (s : State) :
    (latch w s).trace = s.trace := rfl
@[simp] theorem latch_accesses (w : Word) (s : State) :
    (latch w s).accesses = s.accesses := rfl

@[simp] theorem raise_par (e : ErrCode) (s : State) :
    (raise e s).par = s.par := rfl
@[simp] theorem raise_mem (e : ErrCode) (s : State) :
    (raise e s).mem = s.mem := rfl
@[simp] theorem raise_busy (e : ErrCode) (s : State) :
    (raise e s).busy = false := rfl
@[simp] theorem raise_done (e : ErrCode) (s : State) :
    (raise e s).done = false := rfl
@[simp] theorem raise_err (e : ErrCode) (s : State) :
    (raise e s).err = true := rfl
@[simp] theorem raise_errClass (e : ErrCode) (s : State) :
    (raise e s).errClass = e.cls := rfl
@[simp] theorem raise_pstate (e : ErrCode) (s : State) :
    (raise e s).pstate = s.acceptPState := rfl
@[simp] theorem raise_dropped (e : ErrCode) (s : State) :
    (raise e s).dropped = s.dropped := rfl
@[simp] theorem raise_errCode (e : ErrCode) (s : State) :
    (raise e s).errCode = e := rfl
@[simp] theorem raise_imgDim (e : ErrCode) (s : State) :
    (raise e s).imgDim = s.imgDim := rfl
@[simp] theorem raise_srcAddr (e : ErrCode) (s : State) :
    (raise e s).srcAddr = s.srcAddr := rfl
@[simp] theorem raise_dstAddr (e : ErrCode) (s : State) :
    (raise e s).dstAddr = s.dstAddr := rfl
@[simp] theorem raise_winXY (e : ErrCode) (s : State) :
    (raise e s).winXY = s.winXY := rfl
@[simp] theorem raise_winWH (e : ErrCode) (s : State) :
    (raise e s).winWH = s.winWH := rfl
@[simp] theorem raise_matchRgb (e : ErrCode) (s : State) :
    (raise e s).matchRgb = s.matchRgb := rfl
@[simp] theorem raise_result (e : ErrCode) (s : State) :
    (raise e s).result = s.result := rfl
@[simp] theorem raise_bufLen (e : ErrCode) (s : State) :
    (raise e s).bufLen = s.bufLen := rfl
@[simp] theorem raise_busyTimeout (e : ErrCode) (s : State) :
    (raise e s).busyTimeout = s.busyTimeout := rfl
@[simp] theorem raise_op (e : ErrCode) (s : State) :
    (raise e s).op = s.op := rfl
@[simp] theorem raise_seq (e : ErrCode) (s : State) :
    (raise e s).seq = .idle := rfl
@[simp] theorem raise_rstOut (e : ErrCode) (s : State) :
    (raise e s).rstOut = s.rstOut := rfl
@[simp] theorem raise_fs (e : ErrCode) (s : State) :
    (raise e s).fs = s.fs := rfl
@[simp] theorem raise_cellSums (e : ErrCode) (s : State) :
    (raise e s).cellSums = s.cellSums := rfl
@[simp] theorem raise_tileVotes (e : ErrCode) (s : State) :
    (raise e s).tileVotes = s.tileVotes := rfl
@[simp] theorem raise_polls (e : ErrCode) (s : State) :
    (raise e s).polls = s.polls := rfl
@[simp] theorem raise_acceptPState (e : ErrCode) (s : State) :
    (raise e s).acceptPState = s.acceptPState := rfl
@[simp] theorem raise_acceptMem (e : ErrCode) (s : State) :
    (raise e s).acceptMem = s.acceptMem := rfl
@[simp] theorem raise_free (e : ErrCode) (s : State) :
    (raise e s).free = s.free := rfl
@[simp] theorem raise_host (e : ErrCode) (s : State) :
    (raise e s).host = s.host := rfl
@[simp] theorem raise_turns (e : ErrCode) (s : State) :
    (raise e s).turns = s.turns := rfl
@[simp] theorem raise_levels (e : ErrCode) (s : State) :
    (raise e s).levels = s.levels := rfl
@[simp] theorem raise_trace (e : ErrCode) (s : State) :
    (raise e s).trace = s.trace := rfl
@[simp] theorem raise_accesses (e : ErrCode) (s : State) :
    (raise e s).accesses = s.accesses := rfl

@[simp] theorem complete_some_par (n : Nat) (s : State) :
    (complete (some n) s).par = s.par := rfl
@[simp] theorem complete_some_mem (n : Nat) (s : State) :
    (complete (some n) s).mem = s.mem := rfl
@[simp] theorem complete_some_busy (n : Nat) (s : State) :
    (complete (some n) s).busy = false := rfl
@[simp] theorem complete_some_done (n : Nat) (s : State) :
    (complete (some n) s).done = true := rfl
@[simp] theorem complete_some_err (n : Nat) (s : State) :
    (complete (some n) s).err = s.err := rfl
@[simp] theorem complete_some_errClass (n : Nat) (s : State) :
    (complete (some n) s).errClass = s.errClass := rfl
@[simp] theorem complete_some_pstate (n : Nat) (s : State) :
    (complete (some n) s).pstate = s.pstate := rfl
@[simp] theorem complete_some_dropped (n : Nat) (s : State) :
    (complete (some n) s).dropped = s.dropped := rfl
@[simp] theorem complete_some_errCode (n : Nat) (s : State) :
    (complete (some n) s).errCode = s.errCode := rfl
@[simp] theorem complete_some_imgDim (n : Nat) (s : State) :
    (complete (some n) s).imgDim = s.imgDim := rfl
@[simp] theorem complete_some_srcAddr (n : Nat) (s : State) :
    (complete (some n) s).srcAddr = s.srcAddr := rfl
@[simp] theorem complete_some_dstAddr (n : Nat) (s : State) :
    (complete (some n) s).dstAddr = s.dstAddr := rfl
@[simp] theorem complete_some_winXY (n : Nat) (s : State) :
    (complete (some n) s).winXY = s.winXY := rfl
@[simp] theorem complete_some_winWH (n : Nat) (s : State) :
    (complete (some n) s).winWH = s.winWH := rfl
@[simp] theorem complete_some_matchRgb (n : Nat) (s : State) :
    (complete (some n) s).matchRgb = s.matchRgb := rfl
@[simp] theorem complete_some_result (n : Nat) (s : State) :
    (complete (some n) s).result = BitVec.ofNat 32 n := rfl
@[simp] theorem complete_some_bufLen (n : Nat) (s : State) :
    (complete (some n) s).bufLen = s.bufLen := rfl
@[simp] theorem complete_some_busyTimeout (n : Nat) (s : State) :
    (complete (some n) s).busyTimeout = s.busyTimeout := rfl
@[simp] theorem complete_some_op (n : Nat) (s : State) :
    (complete (some n) s).op = s.op := rfl
@[simp] theorem complete_some_seq (n : Nat) (s : State) :
    (complete (some n) s).seq = .idle := rfl
@[simp] theorem complete_some_rstOut (n : Nat) (s : State) :
    (complete (some n) s).rstOut = s.rstOut := rfl
@[simp] theorem complete_some_fs (n : Nat) (s : State) :
    (complete (some n) s).fs = s.fs := rfl
@[simp] theorem complete_some_cellSums (n : Nat) (s : State) :
    (complete (some n) s).cellSums = s.cellSums := rfl
@[simp] theorem complete_some_tileVotes (n : Nat) (s : State) :
    (complete (some n) s).tileVotes = s.tileVotes := rfl
@[simp] theorem complete_some_polls (n : Nat) (s : State) :
    (complete (some n) s).polls = s.polls := rfl
@[simp] theorem complete_some_acceptPState (n : Nat) (s : State) :
    (complete (some n) s).acceptPState = s.acceptPState := rfl
@[simp] theorem complete_some_acceptMem (n : Nat) (s : State) :
    (complete (some n) s).acceptMem = s.acceptMem := rfl
@[simp] theorem complete_some_free (n : Nat) (s : State) :
    (complete (some n) s).free = s.free := rfl
@[simp] theorem complete_some_host (n : Nat) (s : State) :
    (complete (some n) s).host = s.host := rfl
@[simp] theorem complete_some_turns (n : Nat) (s : State) :
    (complete (some n) s).turns = s.turns := rfl
@[simp] theorem complete_some_levels (n : Nat) (s : State) :
    (complete (some n) s).levels = s.levels := rfl
@[simp] theorem complete_some_trace (n : Nat) (s : State) :
    (complete (some n) s).trace = s.trace := rfl
@[simp] theorem complete_some_accesses (n : Nat) (s : State) :
    (complete (some n) s).accesses = s.accesses := rfl

@[simp] theorem complete_none_par (s : State) :
    (complete none s).par = s.par := rfl
@[simp] theorem complete_none_mem (s : State) :
    (complete none s).mem = s.mem := rfl
@[simp] theorem complete_none_busy (s : State) :
    (complete none s).busy = false := rfl
@[simp] theorem complete_none_done (s : State) :
    (complete none s).done = true := rfl
@[simp] theorem complete_none_err (s : State) :
    (complete none s).err = s.err := rfl
@[simp] theorem complete_none_errClass (s : State) :
    (complete none s).errClass = s.errClass := rfl
@[simp] theorem complete_none_pstate (s : State) :
    (complete none s).pstate = s.pstate := rfl
@[simp] theorem complete_none_dropped (s : State) :
    (complete none s).dropped = s.dropped := rfl
@[simp] theorem complete_none_errCode (s : State) :
    (complete none s).errCode = s.errCode := rfl
@[simp] theorem complete_none_imgDim (s : State) :
    (complete none s).imgDim = s.imgDim := rfl
@[simp] theorem complete_none_srcAddr (s : State) :
    (complete none s).srcAddr = s.srcAddr := rfl
@[simp] theorem complete_none_dstAddr (s : State) :
    (complete none s).dstAddr = s.dstAddr := rfl
@[simp] theorem complete_none_winXY (s : State) :
    (complete none s).winXY = s.winXY := rfl
@[simp] theorem complete_none_winWH (s : State) :
    (complete none s).winWH = s.winWH := rfl
@[simp] theorem complete_none_matchRgb (s : State) :
    (complete none s).matchRgb = s.matchRgb := rfl
@[simp] theorem complete_none_result (s : State) :
    (complete none s).result = s.result := rfl
@[simp] theorem complete_none_bufLen (s : State) :
    (complete none s).bufLen = s.bufLen := rfl
@[simp] theorem complete_none_busyTimeout (s : State) :
    (complete none s).busyTimeout = s.busyTimeout := rfl
@[simp] theorem complete_none_op (s : State) :
    (complete none s).op = s.op := rfl
@[simp] theorem complete_none_seq (s : State) :
    (complete none s).seq = .idle := rfl
@[simp] theorem complete_none_rstOut (s : State) :
    (complete none s).rstOut = s.rstOut := rfl
@[simp] theorem complete_none_fs (s : State) :
    (complete none s).fs = s.fs := rfl
@[simp] theorem complete_none_cellSums (s : State) :
    (complete none s).cellSums = s.cellSums := rfl
@[simp] theorem complete_none_tileVotes (s : State) :
    (complete none s).tileVotes = s.tileVotes := rfl
@[simp] theorem complete_none_polls (s : State) :
    (complete none s).polls = s.polls := rfl
@[simp] theorem complete_none_acceptPState (s : State) :
    (complete none s).acceptPState = s.acceptPState := rfl
@[simp] theorem complete_none_acceptMem (s : State) :
    (complete none s).acceptMem = s.acceptMem := rfl
@[simp] theorem complete_none_free (s : State) :
    (complete none s).free = s.free := rfl
@[simp] theorem complete_none_host (s : State) :
    (complete none s).host = s.host := rfl
@[simp] theorem complete_none_turns (s : State) :
    (complete none s).turns = s.turns := rfl
@[simp] theorem complete_none_levels (s : State) :
    (complete none s).levels = s.levels := rfl
@[simp] theorem complete_none_trace (s : State) :
    (complete none s).trace = s.trace := rfl
@[simp] theorem complete_none_accesses (s : State) :
    (complete none s).accesses = s.accesses := rfl

@[simp] theorem launch_par (p : Seq) (s : State) :
    (launch p s).par = s.par := rfl
@[simp] theorem launch_mem (p : Seq) (s : State) :
    (launch p s).mem = s.mem := rfl
@[simp] theorem launch_busy (p : Seq) (s : State) :
    (launch p s).busy = true := rfl
@[simp] theorem launch_done (p : Seq) (s : State) :
    (launch p s).done = s.done := rfl
@[simp] theorem launch_err (p : Seq) (s : State) :
    (launch p s).err = s.err := rfl
@[simp] theorem launch_errClass (p : Seq) (s : State) :
    (launch p s).errClass = s.errClass := rfl
@[simp] theorem launch_pstate (p : Seq) (s : State) :
    (launch p s).pstate = s.pstate := rfl
@[simp] theorem launch_dropped (p : Seq) (s : State) :
    (launch p s).dropped = s.dropped := rfl
@[simp] theorem launch_errCode (p : Seq) (s : State) :
    (launch p s).errCode = s.errCode := rfl
@[simp] theorem launch_imgDim (p : Seq) (s : State) :
    (launch p s).imgDim = s.imgDim := rfl
@[simp] theorem launch_srcAddr (p : Seq) (s : State) :
    (launch p s).srcAddr = s.srcAddr := rfl
@[simp] theorem launch_dstAddr (p : Seq) (s : State) :
    (launch p s).dstAddr = s.dstAddr := rfl
@[simp] theorem launch_winXY (p : Seq) (s : State) :
    (launch p s).winXY = s.winXY := rfl
@[simp] theorem launch_winWH (p : Seq) (s : State) :
    (launch p s).winWH = s.winWH := rfl
@[simp] theorem launch_matchRgb (p : Seq) (s : State) :
    (launch p s).matchRgb = s.matchRgb := rfl
@[simp] theorem launch_result (p : Seq) (s : State) :
    (launch p s).result = s.result := rfl
@[simp] theorem launch_bufLen (p : Seq) (s : State) :
    (launch p s).bufLen = s.bufLen := rfl
@[simp] theorem launch_busyTimeout (p : Seq) (s : State) :
    (launch p s).busyTimeout = s.busyTimeout := rfl
@[simp] theorem launch_op (p : Seq) (s : State) :
    (launch p s).op = s.op := rfl
@[simp] theorem launch_seq (p : Seq) (s : State) :
    (launch p s).seq = p := rfl
@[simp] theorem launch_rstOut (p : Seq) (s : State) :
    (launch p s).rstOut = s.rstOut := rfl
@[simp] theorem launch_fs (p : Seq) (s : State) :
    (launch p s).fs = s.fs := rfl
@[simp] theorem launch_cellSums (p : Seq) (s : State) :
    (launch p s).cellSums = s.cellSums := rfl
@[simp] theorem launch_tileVotes (p : Seq) (s : State) :
    (launch p s).tileVotes = s.tileVotes := rfl
@[simp] theorem launch_polls (p : Seq) (s : State) :
    (launch p s).polls = s.polls := rfl
@[simp] theorem launch_acceptPState (p : Seq) (s : State) :
    (launch p s).acceptPState = s.acceptPState := rfl
@[simp] theorem launch_acceptMem (p : Seq) (s : State) :
    (launch p s).acceptMem = s.acceptMem := rfl
@[simp] theorem launch_free (p : Seq) (s : State) :
    (launch p s).free = s.free := rfl
@[simp] theorem launch_host (p : Seq) (s : State) :
    (launch p s).host = s.host := rfl
@[simp] theorem launch_turns (p : Seq) (s : State) :
    (launch p s).turns = s.turns := rfl
@[simp] theorem launch_levels (p : Seq) (s : State) :
    (launch p s).levels = s.levels := rfl
@[simp] theorem launch_trace (p : Seq) (s : State) :
    (launch p s).trace = s.trace := rfl
@[simp] theorem launch_accesses (p : Seq) (s : State) :
    (launch p s).accesses = s.accesses := rfl

@[simp] theorem putCode_par (k : Nat) (c : Code) (s : State) :
    (putCode k c s).par = s.par := rfl
@[simp] theorem putCode_mem (k : Nat) (c : Code) (s : State) :
    (putCode k c s).mem = s.mem.write (gridAddr s.op k) (codeByte c) := rfl
@[simp] theorem putCode_busy (k : Nat) (c : Code) (s : State) :
    (putCode k c s).busy = s.busy := rfl
@[simp] theorem putCode_done (k : Nat) (c : Code) (s : State) :
    (putCode k c s).done = s.done := rfl
@[simp] theorem putCode_err (k : Nat) (c : Code) (s : State) :
    (putCode k c s).err = s.err := rfl
@[simp] theorem putCode_errClass (k : Nat) (c : Code) (s : State) :
    (putCode k c s).errClass = s.errClass := rfl
@[simp] theorem putCode_pstate (k : Nat) (c : Code) (s : State) :
    (putCode k c s).pstate = s.pstate := rfl
@[simp] theorem putCode_dropped (k : Nat) (c : Code) (s : State) :
    (putCode k c s).dropped = s.dropped := rfl
@[simp] theorem putCode_errCode (k : Nat) (c : Code) (s : State) :
    (putCode k c s).errCode = s.errCode := rfl
@[simp] theorem putCode_imgDim (k : Nat) (c : Code) (s : State) :
    (putCode k c s).imgDim = s.imgDim := rfl
@[simp] theorem putCode_srcAddr (k : Nat) (c : Code) (s : State) :
    (putCode k c s).srcAddr = s.srcAddr := rfl
@[simp] theorem putCode_dstAddr (k : Nat) (c : Code) (s : State) :
    (putCode k c s).dstAddr = s.dstAddr := rfl
@[simp] theorem putCode_winXY (k : Nat) (c : Code) (s : State) :
    (putCode k c s).winXY = s.winXY := rfl
@[simp] theorem putCode_winWH (k : Nat) (c : Code) (s : State) :
    (putCode k c s).winWH = s.winWH := rfl
@[simp] theorem putCode_matchRgb (k : Nat) (c : Code) (s : State) :
    (putCode k c s).matchRgb = s.matchRgb := rfl
@[simp] theorem putCode_result (k : Nat) (c : Code) (s : State) :
    (putCode k c s).result = s.result := rfl
@[simp] theorem putCode_bufLen (k : Nat) (c : Code) (s : State) :
    (putCode k c s).bufLen = s.bufLen := rfl
@[simp] theorem putCode_busyTimeout (k : Nat) (c : Code) (s : State) :
    (putCode k c s).busyTimeout = s.busyTimeout := rfl
@[simp] theorem putCode_op (k : Nat) (c : Code) (s : State) :
    (putCode k c s).op = s.op := rfl
@[simp] theorem putCode_seq (k : Nat) (c : Code) (s : State) :
    (putCode k c s).seq = .pixel (k + 1) := rfl
@[simp] theorem putCode_rstOut (k : Nat) (c : Code) (s : State) :
    (putCode k c s).rstOut = s.rstOut := rfl
@[simp] theorem putCode_fs (k : Nat) (c : Code) (s : State) :
    (putCode k c s).fs = s.fs := rfl
@[simp] theorem putCode_cellSums (k : Nat) (c : Code) (s : State) :
    (putCode k c s).cellSums = s.cellSums := rfl
@[simp] theorem putCode_tileVotes (k : Nat) (c : Code) (s : State) :
    (putCode k c s).tileVotes = s.tileVotes := rfl
@[simp] theorem putCode_polls (k : Nat) (c : Code) (s : State) :
    (putCode k c s).polls = s.polls := rfl
@[simp] theorem putCode_acceptPState (k : Nat) (c : Code) (s : State) :
    (putCode k c s).acceptPState = s.acceptPState := rfl
@[simp] theorem putCode_acceptMem (k : Nat) (c : Code) (s : State) :
    (putCode k c s).acceptMem = s.acceptMem := rfl
@[simp] theorem putCode_free (k : Nat) (c : Code) (s : State) :
    (putCode k c s).free = s.free := rfl
@[simp] theorem putCode_host (k : Nat) (c : Code) (s : State) :
    (putCode k c s).host = s.host := rfl
@[simp] theorem putCode_turns (k : Nat) (c : Code) (s : State) :
    (putCode k c s).turns = s.turns := rfl
@[simp] theorem putCode_levels (k : Nat) (c : Code) (s : State) :
    (putCode k c s).levels = s.levels := rfl
@[simp] theorem putCode_trace (k : Nat) (c : Code) (s : State) :
    (putCode k c s).trace = s.trace := rfl
@[simp] theorem putCode_accesses (k : Nat) (c : Code) (s : State) :
    (putCode k c s).accesses = s.accesses := rfl

@[simp] theorem logAccess_par (e : HostEvent) (s : State) :
    (logAccess e s).par = s.par := rfl
@[simp] theorem logAccess_mem (e : HostEvent) (s : State) :
    (logAccess e s).mem = s.mem := rfl
@[simp] theorem logAccess_busy (e : HostEvent) (s : State) :
    (logAccess e s).busy = s.busy := rfl
@[simp] theorem logAccess_done (e : HostEvent) (s : State) :
    (logAccess e s).done = s.done := rfl
@[simp] theorem logAccess_err (e : HostEvent) (s : State) :
    (logAccess e s).err = s.err := rfl
@[simp] theorem logAccess_errClass (e : HostEvent) (s : State) :
    (logAccess e s).errClass = s.errClass := rfl
@[simp] theorem logAccess_pstate (e : HostEvent) (s : State) :
    (logAccess e s).pstate = s.pstate := rfl
@[simp] theorem logAccess_dropped (e : HostEvent) (s : State) :
    (logAccess e s).dropped = s.dropped := rfl
@[simp] theorem logAccess_errCode (e : HostEvent) (s : State) :
    (logAccess e s).errCode = s.errCode := rfl
@[simp] theorem logAccess_imgDim (e : HostEvent) (s : State) :
    (logAccess e s).imgDim = s.imgDim := rfl
@[simp] theorem logAccess_srcAddr (e : HostEvent) (s : State) :
    (logAccess e s).srcAddr = s.srcAddr := rfl
@[simp] theorem logAccess_dstAddr (e : HostEvent) (s : State) :
    (logAccess e s).dstAddr = s.dstAddr := rfl
@[simp] theorem logAccess_winXY (e : HostEvent) (s : State) :
    (logAccess e s).winXY = s.winXY := rfl
@[simp] theorem logAccess_winWH (e : HostEvent) (s : State) :
    (logAccess e s).winWH = s.winWH := rfl
@[simp] theorem logAccess_matchRgb (e : HostEvent) (s : State) :
    (logAccess e s).matchRgb = s.matchRgb := rfl
@[simp] theorem logAccess_result (e : HostEvent) (s : State) :
    (logAccess e s).result = s.result := rfl
@[simp] theorem logAccess_bufLen (e : HostEvent) (s : State) :
    (logAccess e s).bufLen = s.bufLen := rfl
@[simp] theorem logAccess_busyTimeout (e : HostEvent) (s : State) :
    (logAccess e s).busyTimeout = s.busyTimeout := rfl
@[simp] theorem logAccess_op (e : HostEvent) (s : State) :
    (logAccess e s).op = s.op := rfl
@[simp] theorem logAccess_seq (e : HostEvent) (s : State) :
    (logAccess e s).seq = s.seq := rfl
@[simp] theorem logAccess_rstOut (e : HostEvent) (s : State) :
    (logAccess e s).rstOut = s.rstOut := rfl
@[simp] theorem logAccess_fs (e : HostEvent) (s : State) :
    (logAccess e s).fs = s.fs := rfl
@[simp] theorem logAccess_cellSums (e : HostEvent) (s : State) :
    (logAccess e s).cellSums = s.cellSums := rfl
@[simp] theorem logAccess_tileVotes (e : HostEvent) (s : State) :
    (logAccess e s).tileVotes = s.tileVotes := rfl
@[simp] theorem logAccess_polls (e : HostEvent) (s : State) :
    (logAccess e s).polls = s.polls := rfl
@[simp] theorem logAccess_acceptPState (e : HostEvent) (s : State) :
    (logAccess e s).acceptPState = s.acceptPState := rfl
@[simp] theorem logAccess_acceptMem (e : HostEvent) (s : State) :
    (logAccess e s).acceptMem = s.acceptMem := rfl
@[simp] theorem logAccess_free (e : HostEvent) (s : State) :
    (logAccess e s).free = s.free := rfl
@[simp] theorem logAccess_host (e : HostEvent) (s : State) :
    (logAccess e s).host = s.host := rfl
@[simp] theorem logAccess_turns (e : HostEvent) (s : State) :
    (logAccess e s).turns = s.turns := rfl
@[simp] theorem logAccess_levels (e : HostEvent) (s : State) :
    (logAccess e s).levels = s.levels := rfl
@[simp] theorem logAccess_trace (e : HostEvent) (s : State) :
    (logAccess e s).trace = s.trace := rfl
@[simp] theorem logAccess_accesses (e : HostEvent) (s : State) :
    (logAccess e s).accesses = e :: s.accesses := rfl

@[simp] theorem takeTurn_par (s : State) :
    (takeTurn s).par = s.par := rfl
@[simp] theorem takeTurn_mem (s : State) :
    (takeTurn s).mem = s.mem := rfl
@[simp] theorem takeTurn_busy (s : State) :
    (takeTurn s).busy = s.busy := rfl
@[simp] theorem takeTurn_done (s : State) :
    (takeTurn s).done = s.done := rfl
@[simp] theorem takeTurn_err (s : State) :
    (takeTurn s).err = s.err := rfl
@[simp] theorem takeTurn_errClass (s : State) :
    (takeTurn s).errClass = s.errClass := rfl
@[simp] theorem takeTurn_pstate (s : State) :
    (takeTurn s).pstate = s.pstate := rfl
@[simp] theorem takeTurn_dropped (s : State) :
    (takeTurn s).dropped = s.dropped := rfl
@[simp] theorem takeTurn_errCode (s : State) :
    (takeTurn s).errCode = s.errCode := rfl
@[simp] theorem takeTurn_imgDim (s : State) :
    (takeTurn s).imgDim = s.imgDim := rfl
@[simp] theorem takeTurn_srcAddr (s : State) :
    (takeTurn s).srcAddr = s.srcAddr := rfl
@[simp] theorem takeTurn_dstAddr (s : State) :
    (takeTurn s).dstAddr = s.dstAddr := rfl
@[simp] theorem takeTurn_winXY (s : State) :
    (takeTurn s).winXY = s.winXY := rfl
@[simp] theorem takeTurn_winWH (s : State) :
    (takeTurn s).winWH = s.winWH := rfl
@[simp] theorem takeTurn_matchRgb (s : State) :
    (takeTurn s).matchRgb = s.matchRgb := rfl
@[simp] theorem takeTurn_result (s : State) :
    (takeTurn s).result = s.result := rfl
@[simp] theorem takeTurn_bufLen (s : State) :
    (takeTurn s).bufLen = s.bufLen := rfl
@[simp] theorem takeTurn_busyTimeout (s : State) :
    (takeTurn s).busyTimeout = s.busyTimeout := rfl
@[simp] theorem takeTurn_op (s : State) :
    (takeTurn s).op = s.op := rfl
@[simp] theorem takeTurn_seq (s : State) :
    (takeTurn s).seq = s.seq := rfl
@[simp] theorem takeTurn_rstOut (s : State) :
    (takeTurn s).rstOut = s.rstOut := rfl
@[simp] theorem takeTurn_fs (s : State) :
    (takeTurn s).fs = s.fs := rfl
@[simp] theorem takeTurn_cellSums (s : State) :
    (takeTurn s).cellSums = s.cellSums := rfl
@[simp] theorem takeTurn_tileVotes (s : State) :
    (takeTurn s).tileVotes = s.tileVotes := rfl
@[simp] theorem takeTurn_polls (s : State) :
    (takeTurn s).polls = s.polls := rfl
@[simp] theorem takeTurn_acceptPState (s : State) :
    (takeTurn s).acceptPState = s.acceptPState := rfl
@[simp] theorem takeTurn_acceptMem (s : State) :
    (takeTurn s).acceptMem = s.acceptMem := rfl
@[simp] theorem takeTurn_free (s : State) :
    (takeTurn s).free = s.free := rfl
@[simp] theorem takeTurn_host (s : State) :
    (takeTurn s).host = s.host := rfl
@[simp] theorem takeTurn_turns (s : State) :
    (takeTurn s).turns = s.turns.tail := rfl
@[simp] theorem takeTurn_levels (s : State) :
    (takeTurn s).levels = s.levels := rfl
@[simp] theorem takeTurn_trace (s : State) :
    (takeTurn s).trace = s.trace := rfl
@[simp] theorem takeTurn_accesses (s : State) :
    (takeTurn s).accesses = s.accesses := rfl

/-! `readBusyLine` differs between a pending level and a free one. -/

@[simp] theorem readBusyLine_par (s : State) :
    (readBusyLine s).par = s.par := by
  unfold readBusyLine; split <;> rfl
@[simp] theorem readBusyLine_mem (s : State) :
    (readBusyLine s).mem = s.mem := by
  unfold readBusyLine; split <;> rfl
@[simp] theorem readBusyLine_busy (s : State) :
    (readBusyLine s).busy = s.busy := by
  unfold readBusyLine; split <;> rfl
@[simp] theorem readBusyLine_done (s : State) :
    (readBusyLine s).done = s.done := by
  unfold readBusyLine; split <;> rfl
@[simp] theorem readBusyLine_err (s : State) :
    (readBusyLine s).err = s.err := by
  unfold readBusyLine; split <;> rfl
@[simp] theorem readBusyLine_errClass (s : State) :
    (readBusyLine s).errClass = s.errClass := by
  unfold readBusyLine; split <;> rfl
@[simp] theorem readBusyLine_pstate (s : State) :
    (readBusyLine s).pstate = s.pstate := by
  unfold readBusyLine; split <;> rfl
@[simp] theorem readBusyLine_dropped (s : State) :
    (readBusyLine s).dropped = s.dropped := by
  unfold readBusyLine; split <;> rfl
@[simp] theorem readBusyLine_errCode (s : State) :
    (readBusyLine s).errCode = s.errCode := by
  unfold readBusyLine; split <;> rfl
@[simp] theorem readBusyLine_imgDim (s : State) :
    (readBusyLine s).imgDim = s.imgDim := by
  unfold readBusyLine; split <;> rfl
@[simp] theorem readBusyLine_srcAddr (s : State) :
    (readBusyLine s).srcAddr = s.srcAddr := by
  unfold readBusyLine; split <;> rfl
@[simp] theorem readBusyLine_dstAddr (s : State) :
    (readBusyLine s).dstAddr = s.dstAddr := by
  unfold readBusyLine; split <;> rfl
@[simp] theorem readBusyLine_winXY (s : State) :
    (readBusyLine s).winXY = s.winXY := by
  unfold readBusyLine; split <;> rfl
@[simp] theorem readBusyLine_winWH (s : State) :
    (readBusyLine s).winWH = s.winWH := by
  unfold readBusyLine; split <;> rfl
@[simp] theorem readBusyLine_matchRgb (s : State) :
    (readBusyLine s).matchRgb = s.matchRgb := by
  unfold readBusyLine; split <;> rfl
@[simp] theorem readBusyLine_result (s : State) :
    (readBusyLine s).result = s.result := by
  unfold readBusyLine; split <;> rfl
@[simp] theorem readBusyLine_bufLen (s : State) :
    (readBusyLine s).bufLen = s.bufLen := by
  unfold readBusyLine; split <;> rfl
@[simp] theorem readBusyLine_busyTimeout (s : State) :
    (readBusyLine s).busyTimeout = s.busyTimeout := by
  unfold readBusyLine; split <;> rfl
@[simp] theorem readBusyLine_op (s : State) :
    (readBusyLine s).op = s.op := by
  unfold readBusyLine; split <;> rfl
@[simp] theorem readBusyLine_seq (s : State) :
    (readBusyLine s).seq = s.seq := by
  unfold readBusyLine; split <;> rfl
@[simp] theorem readBusyLine_rstOut (s : State) :
    (readBusyLine s).rstOut = s.rstOut := by
  unfold readBusyLine; split <;> rfl
@[simp] theorem readBusyLine_fs (s : State) :
    (readBusyLine s).fs = s.fs := by
  unfold readBusyLine; split <;> rfl
@[simp] theorem readBusyLine_cellSums (s : State) :
    (readBusyLine s).cellSums = s.cellSums := by
  unfold readBusyLine; split <;> rfl
@[simp] theorem readBusyLine_tileVotes (s : State) :
    (readBusyLine s).tileVotes = s.tileVotes := by
  unfold readBusyLine; split <;> rfl
@[simp] theorem readBusyLine_polls (s : State) :
    (readBusyLine s).polls = s.polls := by
  unfold readBusyLine; split <;> rfl
@[simp] theorem readBusyLine_acceptPState (s : State) :
    (readBusyLine s).acceptPState = s.acceptPState := by
  unfold readBusyLine; split <;> rfl
@[simp] theorem readBusyLine_acceptMem (s : State) :
    (readBusyLine s).acceptMem = s.acceptMem := by
  unfold readBusyLine; split <;> rfl
@[simp] theorem readBusyLine_host (s : State) :
    (readBusyLine s).host = s.host := by
  unfold readBusyLine; split <;> rfl
@[simp] theorem readBusyLine_turns (s : State) :
    (readBusyLine s).turns = s.turns := by
  unfold readBusyLine; split <;> rfl
@[simp] theorem readBusyLine_accesses (s : State) :
    (readBusyLine s).accesses = s.accesses := by
  unfold readBusyLine; split <;> rfl
@[simp] theorem readBusyLine_trace (s : State) :
    (readBusyLine s).trace = .poll (busyLevel s) :: s.trace := by
  unfold readBusyLine; split <;> rfl
@[simp] theorem readBusyLine_levels (s : State) :
    (readBusyLine s).levels = s.levels.tail := by
  unfold readBusyLine; split <;> simp_all

/-! The bus trace in the order of the events. -/

@[simp] theorem busTrace_emit (e : BusEvent) (s : State) : busTrace (emit e s) = busTrace s ++ [e] := by
  simp [busTrace]

/-! What is latched at accept is what the registers held. -/

@[simp] theorem operandsOf_clearFlags (w : Word) (s : State) : operandsOf w (clearFlags s) = operandsOf w s := rfl
@[simp] theorem operandsOf_word (w : Word) (s : State) : (operandsOf w s).word = w := rfl

end Sys2Proof.Machine
end

