-- ==== Sys2Proof/Laws/Ops.lean ====
section
/-! SUPPORT. What the shared operations do: the accept of a word, the order of the checks, and the range
and overlap checks in the terms of the spec. -/

namespace Sys2Proof.Machine

/-! The order of the checks (60_exceptions.md R313). -/

@[simp] theorem firstFailing_nil : firstFailing [] = none := rfl

@[simp] theorem firstFailing_cons (b : Bool) (e : ErrCode) (rest : List (Bool × ErrCode)) :
    firstFailing ((b, e) :: rest) = if b = true then some e else firstFailing rest := by
  cases b <;> rfl

/-- No check fails exactly if each of them passes. -/
theorem firstFailing_eq_none {l : List (Bool × ErrCode)} :
    firstFailing l = none ↔ ∀ c ∈ l, c.1 = false := by
  induction l with
  | nil => simp
  | cons c rest ih => obtain ⟨b, e⟩ := c; cases b <;> simp [ih]

/-- What fails is one of the checks. -/
theorem mem_of_firstFailing {l : List (Bool × ErrCode)} {e : ErrCode} (h : firstFailing l = some e) : (true, e) ∈ l := by
  induction l with
  | nil => cases h
  | cons c rest ih =>
    obtain ⟨b, e'⟩ := c
    cases b with
    | true => cases h; exact List.mem_cons_self ..
    | false => exact List.mem_cons_of_mem _ (ih h)

theorem stateCheck_passes {p : PState} {s : State} : (stateCheck p s).1 = false ↔ s.pstate = p := by
  rw [stateCheck, decide_eq_false_iff_not, not_not]

theorem rangeCheck_passes {i : Instr} {s : State} :
    (rangeCheck i s).1 = false ↔ rangesFit i s.op s.par.memSize = true := by simp [rangeCheck]

theorem overlapCheck_passes {i : Instr} {s : State} :
    (overlapCheck i s).1 = false ↔ rangesOverlap i s.op = false := Iff.rfl

/-! Presenting a word (10_state.md R61). -/

theorem present_busy {w : Word} {body : State → State} {s : State} (h : s.busy = true) :
    present w body s = { s with dropped := true } := by simp [present, h]

theorem present_idle {w : Word} {body : State → State} {s : State} (h : s.busy = false) :
    present w body s = body (latch w (clearFlags s)) := by simp [present, h]

theorem accept_busy {i : Instr} {checks : State → List (Bool × ErrCode)} {start : State → State} {s : State}
    (h : s.busy = true) : accept i checks start s = { s with dropped := true } := present_busy h

theorem accept_rejected {i : Instr} {checks : State → List (Bool × ErrCode)} {start : State → State} {s : State}
    {e : ErrCode} (h : s.busy = false)
    (hf : firstFailing (checks (latch (encode i) (clearFlags s))) = some e) :
    accept i checks start s = raise e (latch (encode i) (clearFlags s)) := by
  simp [accept, present_idle h, hf]

theorem accept_started {i : Instr} {checks : State → List (Bool × ErrCode)} {start : State → State} {s : State}
    (h : s.busy = false) (hf : firstFailing (checks (latch (encode i) (clearFlags s))) = none) :
    accept i checks start s = start (latch (encode i) (clearFlags s)) := by
  simp [accept, present_idle h, hf]

/-- An error at accept changes STATUS and nothing else (60_exceptions.md R315, R316). -/
theorem rejectedAs_raise (w : Word) (e : ErrCode) (s : State) :
    RejectedAs e s (raise e (latch w (clearFlags s))) := rfl

/-- The three outcomes of an accept. -/
theorem accept_cases (i : Instr) (checks : State → List (Bool × ErrCode)) (start : State → State) (s : State) :
    (s.busy = true ∧ accept i checks start s = { s with dropped := true }) ∨
    (s.busy = false ∧ ∃ e, firstFailing (checks (latch (encode i) (clearFlags s))) = some e ∧
      accept i checks start s = raise e (latch (encode i) (clearFlags s))) ∨
    (s.busy = false ∧ firstFailing (checks (latch (encode i) (clearFlags s))) = none ∧
      accept i checks start s = start (latch (encode i) (clearFlags s))) := by
  by_cases hb : s.busy = true
  · exact .inl ⟨hb, accept_busy hb⟩
  · rw [Bool.not_eq_true] at hb
    rcases hf : firstFailing (checks (latch (encode i) (clearFlags s))) with _ | e
    · exact .inr (.inr ⟨hb, rfl, accept_started hb hf⟩)
    · exact .inr (.inl ⟨hb, e, rfl, accept_rejected hb hf⟩)

/-! The ranges (20_memory.md R89, R95, R96). -/

theorem inRange_iff (start len a : Nat) : inRange start len a = true ↔ start ≤ a ∧ a < start + len := by
  simp [inRange]

theorem rangeFits_iff (start len size : Nat) :
    rangeFits start len size = true ↔ len = 0 ∨ start + len ≤ size := by simp [rangeFits]

theorem rangesFit_iff (i : Instr) (o : Op) (size : Nat) :
    rangesFit i o size = true ↔
      (srcLen i o = 0 ∨ o.src + srcLen i o ≤ size) ∧ (dstLen i o = 0 ∨ o.dst + dstLen i o ≤ size) := by
  simp [rangesFit, rangeFits_iff]

/-- The ranges overlap exactly if they share a byte. -/
theorem rangesOverlap_iff (i : Instr) (o : Op) :
    rangesOverlap i o = true ↔ ∃ a, inSrc i o a = true ∧ inDst i o a = true := by
  simp only [rangesOverlap, inSrc, inDst, inRange_iff, Bool.and_eq_true, decide_eq_true_eq]
  constructor
  · rintro ⟨⟨⟨h1, h2⟩, h3⟩, h4⟩
    exact ⟨max o.src o.dst, by omega⟩
  · rintro ⟨a, h⟩
    omega

/-- A byte of one range is none of the other, once the overlap check has passed. -/
theorem apart_of_not_overlap {i : Instr} {o : Op} (h : rangesOverlap i o = false) {a : Nat}
    (hs : inSrc i o a = true) : inDst i o a = false := by
  by_contra hd
  rw [Bool.not_eq_false] at hd
  have := (rangesOverlap_iff i o).2 ⟨a, hs, hd⟩
  simp [h] at this

end Sys2Proof.Machine
end

