-- ==== Sys2Proof/Laws/Accept.lean ====
section
/-! SUPPORT. Which commands pass their accept-time checks, and where the engine then stands. -/

namespace Sys2Proof.Machine

/-- `s` as accept latches it (10_state.md R61), the word being `i`'s. -/
abbrev latched (i : Instr) (s : State) : State := latch (encode i) (clearFlags s)

/-- Where a command's body starts. -/
def startPosition (i : Instr) (p : Params) : Seq :=
  match i with
  | .matchRgb => .idle
  | .quantizeNone | .quantizeOrdered => .pixel 0
  | .quantizeFs | .quantizeHalftone | .quantizePopart => .setup
  | .pack | .panelFull | .panelPartial => .check 0
  | .panelReset => .resetLine 0
  | .panelInit => .steps p.initSeq
  | .panelBlank _ => .transmit
  | .panelSleep => .steps p.sleepSeq

/-- The accept-time checks of each command after the decode, in their order. -/
def checksOf (i : Instr) (s : State) : List (Bool × ErrCode) :=
  match i with
  | .matchRgb | .panelReset => []
  | .quantizeNone | .quantizeFs | .quantizeHalftone | .quantizeOrdered | .quantizePopart => quantizeChecks i s
  | .pack => packChecks s
  | .panelInit => initChecks s
  | .panelFull => fullChecks s
  | .panelPartial => partialChecks s
  | .panelBlank c => blankChecks c s
  | .panelSleep => sleepChecks s

/-- Each check has an error code of its own (60_exceptions.md R312). -/
theorem checksOf_codes (i : Instr) (s : State) : ∀ c ∈ checksOf i s, c.2 ≠ .noError := by
  cases i <;> simp [checksOf, quantizeChecks, packChecks, initChecks, fullChecks, partialChecks, blankChecks, sleepChecks,
    dimCheck, rangeCheck, overlapCheck, stateCheck]

/-- A command's start: MATCH is performed at once, the others begin their body. -/
def startOf (i : Instr) (s : State) : State :=
  match i with
  | .matchRgb => performMatch s
  | _ => launch (startPosition i s.par) s

/-- Every command is one accept. -/
theorem exec_eq (i : Instr) (s : State) : exec i s = .next (accept i (checksOf i) (startOf i) s) := by
  cases i <;> rfl

/-- QUANTIZE's checks pass on operands that are in order. -/
theorem quantizeChecks_pass {i : Instr} {w : Word} {s : State} (hi : isQuantize i = true) (h : QuantizeOk s) :
    firstFailing (quantizeChecks i (latch w (clearFlags s))) = none := by
  obtain ⟨h1, h2, h3, h4, h5⟩ := h
  have hs : srcLen i (operandsOf w s) = 3 * ((liveOp s).imgW * (liveOp s).imgH) := by cases i <;> first | rfl | cases hi
  have hd : dstLen i (operandsOf w s) = (liveOp s).imgW * (liveOp s).imgH := by cases i <;> first | rfl | cases hi
  have hfit : rangesFit i (operandsOf w s) s.par.memSize = true := by
    rw [rangesFit_iff, hs, hd]; exact ⟨.inr h3, .inr h4⟩
  have hover : rangesOverlap i (operandsOf w s) = false := by
    simp only [rangesOverlap, hs, hd, Bool.and_eq_false_iff, decide_eq_false_iff_not]
    change (_ ∨ ¬ (liveOp s).src < (liveOp s).dst + _) ∨ ¬ (liveOp s).dst < (liveOp s).src + _
    omega
  have hw : (operandsOf w s).imgW ≠ 0 := by change (liveOp s).imgW ≠ 0; omega
  have hh : (operandsOf w s).imgH ≠ 0 := by change (liveOp s).imgH ≠ 0; omega
  simp [quantizeChecks, dimCheck, rangeCheck, overlapCheck, hfit, hover, hw, hh]

/-- PACK's checks pass on operands that are in order. -/
theorem packChecks_pass {w : Word} {s : State} (h : PackOk s) :
    firstFailing (packChecks (latch w (clearFlags s))) = none := by
  obtain ⟨h1, h2, h3, h4, h5⟩ := h
  have hs : srcLen .pack (operandsOf w s) = (liveOp s).imgW * (liveOp s).imgH := rfl
  have hd : dstLen .pack (operandsOf w s) = (liveOp s).imgH * ceilDiv (liveOp s).imgW 2 := rfl
  have hfit : rangesFit .pack (operandsOf w s) s.par.memSize = true := by
    rw [rangesFit_iff, hs, hd]; exact ⟨.inr h3, .inr h4⟩
  have hover : rangesOverlap .pack (operandsOf w s) = false := by
    simp only [rangesOverlap, hs, hd, Bool.and_eq_false_iff, decide_eq_false_iff_not]
    change (_ ∨ ¬ (liveOp s).src < (liveOp s).dst + _) ∨ ¬ (liveOp s).dst < (liveOp s).src + _
    omega
  have hw : (operandsOf w s).imgW ≠ 0 := by change (liveOp s).imgW ≠ 0; omega
  have hh : (operandsOf w s).imgH ≠ 0 := by change (liveOp s).imgH ≠ 0; omega
  simp [packChecks, dimCheck, rangeCheck, overlapCheck, hfit, hover, hw, hh]

theorem windowLegal_iff {w : Word} {s : State} : windowLegal s.par (operandsOf w s) = true ↔ WindowOk s := by
  simp only [windowLegal, Bool.and_eq_true, decide_eq_true_eq]
  exact ⟨fun ⟨⟨⟨a, b⟩, c⟩, d⟩ => ⟨a, b, c, d⟩, fun ⟨a, b, c, d⟩ => ⟨⟨⟨a, b⟩, c⟩, d⟩⟩

theorem blankLegal_iff {w : Word} {s : State} : blankLegal s.par (operandsOf w s) = true ↔ AreaOk s := by
  simp only [blankLegal, Bool.and_eq_true, decide_eq_true_eq]
  exact ⟨fun ⟨⟨⟨a, b⟩, c⟩, d⟩ => ⟨⟨a, b⟩, ⟨c, d⟩⟩, fun ⟨⟨a, b⟩, ⟨c, d⟩⟩ => ⟨⟨⟨a, b⟩, c⟩, d⟩⟩

/-- A command whose start state and operands are in order passes its checks. -/
theorem checksOf_pass {i : Instr} {s : State} (h : AcceptOk i s) : firstFailing (checksOf i (latched i s)) = none := by
  cases i with
  | matchRgb | panelReset => rfl
  | quantizeNone | quantizeFs | quantizeHalftone | quantizeOrdered | quantizePopart => exact quantizeChecks_pass rfl h
  | pack => exact packChecks_pass h
  | panelInit | panelSleep =>
    simp only [AcceptOk] at h
    simp [checksOf, initChecks, sleepChecks, stateCheck, h]
  | panelFull =>
    obtain ⟨h1, h2, h3⟩ := h
    have hl : (operandsOf (encode .panelFull) s).len = panelBytes s.par := h2
    have hfit : rangesFit .panelFull (operandsOf (encode .panelFull) s) s.par.memSize = true := by
      rw [rangesFit_iff]; exact ⟨.inr h3, .inl rfl⟩
    simp [checksOf, fullChecks, stateCheck, rangeCheck, h1, hl, hfit]
  | panelPartial =>
    obtain ⟨h1, h2, h3, h4⟩ := h
    have hl : (operandsOf (encode .panelPartial) s).len = (operandsOf (encode .panelPartial) s).windowBytes := h3
    have hfit : rangesFit .panelPartial (operandsOf (encode .panelPartial) s) s.par.memSize = true := by
      rw [rangesFit_iff]; exact ⟨.inr h4, .inl rfl⟩
    simp [checksOf, partialChecks, stateCheck, rangeCheck, h1, hl, hfit, windowLegal_iff.2 h2]
  | panelBlank c =>
    obtain ⟨h1, h2, h3⟩ := h
    simp [checksOf, blankChecks, stateCheck, h1, h2, blankLegal_iff.2 h3]

/-- The start of a command nothing stops. -/
theorem exec_started {i : Instr} {s : State} (hb : s.busy = false) (h : AcceptOk i s) :
    exec i s = .next (startOf i (latched i s)) := by
  rw [exec_eq, accept_started hb (checksOf_pass h)]

/-- The refusal of a command by its first failing check. -/
theorem exec_rejected {i : Instr} {s : State} {e : ErrCode} (hb : s.busy = false)
    (h : firstFailing (checksOf i (latched i s)) = some e) :
    exec i s = .next (raise e (latched i s)) := by
  rw [exec_eq, accept_rejected hb h]

/-- A started command stands at a position of its own, PSTATE being what it was (43_panel.md R259, R261). -/
theorem seqPState_start {i : Instr} {s : State} (hi : i ≠ .matchRgb) (h : AcceptOk i s) :
    seqPState i s.pstate (startPosition i s.par) = some s.pstate := by
  cases i <;> first
    | exact absurd rfl hi
    | rfl
    | exact congrArg some h.state.symm
    | exact congrArg some h.symm

end Sys2Proof.Machine
end

