-- ==== Sys2Proof/Laws/Memory.lean ====
section
/-! SUPPORT. Laws of data memory: a write keeps the canonical form and the bounds, a read after a write,
and equal reads mean equal memories. -/

namespace Sys2Proof.Machine

@[simp] theorem Memory.read_nil (a : Nat) : Memory.read [] a = 0 := rfl

theorem Memory.wf_nil : Memory.wf [] := by simp [Memory.wf]

theorem Memory.wf_tail {c : Host.Cell} {m : Memory} (h : Memory.wf (c :: m)) : Memory.wf m :=
  ⟨(List.pairwise_cons.1 h.1).2, fun p hp => h.2 p (List.mem_cons_of_mem _ hp)⟩

theorem Memory.wf_head_lt {c : Host.Cell} {m : Memory} (h : Memory.wf (c :: m)) :
    ∀ p ∈ m, c.1 < p.1 := (List.pairwise_cons.1 h.1).1

theorem Memory.wf_cons {c : Host.Cell} {m : Memory} (hm : Memory.wf m) (hc : c.2 ≠ 0#8)
    (hlt : ∀ p ∈ m, c.1 < p.1) : Memory.wf (c :: m) :=
  ⟨List.pairwise_cons.2 ⟨hlt, hm.1⟩, fun p hp => by
    rcases List.mem_cons.1 hp with rfl | hp
    · exact hc
    · exact hm.2 p hp⟩

/-- An address no entry has reads 0x00. -/
theorem Memory.read_of_not_listed {m : Memory} {a : Nat} (h : ∀ p ∈ m, p.1 ≠ a) : m.read a = 0 := by
  induction m with
  | nil => rfl
  | cons c rest ih =>
    simp only [Memory.read]
    rw [if_neg (h c (List.mem_cons_self ..))]
    exact ih fun p hp => h p (List.mem_cons_of_mem _ hp)

/-- A listed entry is what is read. -/
theorem Memory.read_of_mem {m : Memory} (hw : Memory.wf m) {p : Host.Cell} (hp : p ∈ m) : m.read p.1 = p.2 := by
  induction m with
  | nil => cases hp
  | cons c rest ih =>
    simp only [Memory.read]
    rcases List.mem_cons.1 hp with rfl | hp
    · simp
    · have := Memory.wf_head_lt hw p hp
      rw [if_neg (by omega)]
      exact ih (Memory.wf_tail hw) hp

/-- What an entry of a written memory is. -/
theorem Memory.mem_write {m : Memory} {a : Nat} {v : Byte} {p : Host.Cell} (h : p ∈ m.write a v) :
    p = (a, v) ∧ v ≠ 0#8 ∨ p ∈ m := by
  induction m with
  | nil =>
    simp only [Memory.write] at h
    split at h
    · cases h
    · next hv => exact .inl ⟨by simpa using h, hv⟩
  | cons c rest ih =>
    simp only [Memory.write] at h
    split at h
    · split at h
      · exact .inr h
      · next hv =>
        rcases List.mem_cons.1 h with rfl | h
        · exact .inl ⟨rfl, hv⟩
        · exact .inr h
    · split at h
      · split at h
        · exact .inr (List.mem_cons_of_mem _ h)
        · next hv =>
          rcases List.mem_cons.1 h with rfl | h
          · exact .inl ⟨rfl, hv⟩
          · exact .inr (List.mem_cons_of_mem _ h)
      · rcases List.mem_cons.1 h with rfl | h
        · exact .inr (List.mem_cons_self ..)
        · exact (ih h).imp id (List.mem_cons_of_mem _)

/-- Every write keeps the canonical form. -/
theorem Memory.wf_write {m : Memory} (hw : Memory.wf m) (a : Nat) (v : Byte) : Memory.wf (m.write a v) := by
  induction m with
  | nil =>
    simp only [Memory.write]
    split
    · exact Memory.wf_nil
    · next hv => exact Memory.wf_cons Memory.wf_nil hv (by simp)
  | cons c rest ih =>
    have hrest := Memory.wf_tail hw
    have hlt := Memory.wf_head_lt hw
    have hc : c.2 ≠ 0#8 := hw.2 c (List.mem_cons_self ..)
    simp only [Memory.write]
    split
    · next hac =>
      split
      · exact hw
      · next hv =>
        refine Memory.wf_cons hw hv fun p hp => ?_
        rcases List.mem_cons.1 hp with rfl | hp
        · exact hac
        · exact lt_trans hac (hlt p hp)
    · split
      · next hac hca =>
        split
        · exact hrest
        · next hv => exact Memory.wf_cons hrest hv fun p hp => hca ▸ hlt p hp
      · next hac hca =>
        refine Memory.wf_cons (ih hrest) hc fun p hp => ?_
        rcases Memory.mem_write hp with ⟨rfl, -⟩ | hp
        · show c.1 < a
          omega
        · exact hlt p hp

/-- A write changes no bound on the addresses it does not break itself. -/
theorem Memory.inside_write {m : Memory} {n a : Nat} {v : Byte} (h : ∀ c ∈ m, c.1 < n) (ha : a < n) :
    ∀ c ∈ m.write a v, c.1 < n := fun c hc => by
  rcases Memory.mem_write hc with ⟨rfl, -⟩ | hc
  · exact ha
  · exact h c hc

/-- A read after a write. -/
theorem Memory.read_write {m : Memory} (hw : Memory.wf m) (a b : Nat) (v : Byte) :
    (m.write a v).read b = if a = b then v else m.read b := by
  induction m with
  | nil =>
    simp only [Memory.write]
    split
    · next hv => simp [hv]
    · simp [Memory.read]
  | cons c rest ih =>
    have hrest := Memory.wf_tail hw
    have hlt := Memory.wf_head_lt hw
    simp only [Memory.write]
    split
    · next hac =>
      split
      · next hv =>
        split
        · next hab =>
          rw [hv]
          refine Memory.read_of_not_listed fun p hp => ?_
          rcases List.mem_cons.1 hp with rfl | hp
          · omega
          · have := hlt p hp
            omega
        · rfl
      · simp [Memory.read]
    · split
      · next hca =>
        split
        · next hv =>
          split
          · next hab =>
            rw [hv]
            refine Memory.read_of_not_listed fun p hp => ?_
            have := hlt p hp
            omega
          · next hab => simp only [Memory.read]; rw [if_neg (by omega)]
        · simp only [Memory.read]
          by_cases hab : a = b
          · simp [hab]
          · rw [if_neg hab, if_neg hab, if_neg (by omega)]
      · simp only [Memory.read]
        rw [ih hrest]
        split <;> split <;> first | rfl | omega

theorem Memory.read_write_same {m : Memory} (hw : Memory.wf m) (a : Nat) (v : Byte) : (m.write a v).read a = v := by
  rw [Memory.read_write hw, if_pos rfl]

theorem Memory.read_write_ne {m : Memory} (hw : Memory.wf m) {a b : Nat} (v : Byte) (h : a ≠ b) :
    (m.write a v).read b = m.read b := by
  rw [Memory.read_write hw, if_neg h]

/-- Two canonical memories that read alike are equal data. -/
theorem Memory.eq_of_read {m n : Memory} (hm : Memory.wf m) (hn : Memory.wf n)
    (h : ∀ a, m.read a = n.read a) : m = n := by
  induction m generalizing n with
  | nil =>
    cases n with
    | nil => rfl
    | cons c rest =>
      have := h c.1
      rw [Memory.read_of_mem hn (List.mem_cons_self ..)] at this
      exact absurd this.symm (hn.2 c (List.mem_cons_self ..))
  | cons c rest ih =>
    cases n with
    | nil =>
      have := h c.1
      rw [Memory.read_of_mem hm (List.mem_cons_self ..)] at this
      exact absurd this (hm.2 c (List.mem_cons_self ..))
    | cons d more =>
      have hc := hm.2 c (List.mem_cons_self ..)
      have hd := hn.2 d (List.mem_cons_self ..)
      have h1 := h c.1
      have h2 := h d.1
      rw [Memory.read_of_mem hm (List.mem_cons_self ..)] at h1
      rw [Memory.read_of_mem hn (List.mem_cons_self ..)] at h2
      have hcd : c.1 = d.1 := by
        rcases Nat.lt_trichotomy c.1 d.1 with hlt | heq | hgt
        · rw [Memory.read_of_not_listed (a := c.1)] at h1
          · exact absurd h1 hc
          · intro p hp
            rcases List.mem_cons.1 hp with rfl | hp
            · omega
            · have := Memory.wf_head_lt hn p hp
              omega
        · exact heq
        · rw [Memory.read_of_not_listed (a := d.1)] at h2
          · exact absurd h2.symm hd
          · intro p hp
            rcases List.mem_cons.1 hp with rfl | hp
            · omega
            · have := Memory.wf_head_lt hm p hp
              omega
      have hval : c.2 = d.2 := by
        rw [h1, hcd, Memory.read_of_mem hn (List.mem_cons_self ..)]
      have hcd' : c = d := Prod.ext hcd hval
      subst hcd'
      congr 1
      refine ih (Memory.wf_tail hm) (Memory.wf_tail hn) fun a => ?_
      have ha := h a
      simp only [Memory.read] at ha
      by_cases hca : c.1 = a
      · rw [Memory.read_of_not_listed fun p hp => by have := Memory.wf_head_lt hm p hp; omega,
          Memory.read_of_not_listed fun p hp => by have := Memory.wf_head_lt hn p hp; omega]
      · simpa [hca] using ha

end Sys2Proof.Machine
end

