-- ==== Sys2Proof/Laws/Palette.lean ====
section
/-! SUPPORT. Laws of the palette: `leastInk` is the first of the least entries, every code is one of the
six, votes are counts. -/

namespace Sys2Proof.Machine

theorem inkIndex_injective {i j : Ink} (h : inkIndex i = inkIndex j) : i = j := by
  cases i <;> cases j <;> first | rfl | cases h

/-- A statement about every entry is six statements. -/
theorem Ink.forall {p : Ink → Prop} :
    (∀ i, p i) ↔ p .black ∧ p .white ∧ p .yellow ∧ p .red ∧ p .blue ∧ p .green :=
  ⟨fun h => ⟨h _, h _, h _, h _, h _, h _⟩, fun ⟨a, b, c, d, e, f⟩ i => by cases i <;> assumption⟩

/-- Entry `i` is of least value and, of those of least value, declared first. -/
def IsFirstLeast (f : Ink → Int) (i : Ink) : Prop :=
  (∀ j, f i ≤ f j) ∧ ∀ j, inkIndex j < inkIndex i → f i < f j

theorem IsFirstLeast.unique {f : Ink → Int} {i j : Ink} (hi : IsFirstLeast f i) (hj : IsFirstLeast f j) : i = j := by
  rcases Nat.lt_trichotomy (inkIndex i) (inkIndex j) with h | h | h
  · have := hj.2 i h
    have := hi.1 j
    omega
  · exact inkIndex_injective h
  · have := hi.2 j h
    have := hj.1 i
    omega

/-- The comparison loop of R162 finds the first least entry. -/
theorem isFirstLeast_leastInk (f : Ink → Int) : IsFirstLeast f (leastInk f) := by
  simp only [IsFirstLeast, leastInk, List.foldl_cons, List.foldl_nil, Ink.forall]
  split_ifs <;> simp [inkIndex] <;> omega

theorem leastInk_eq_iff (f : Ink → Int) (i : Ink) : leastInk f = i ↔ IsFirstLeast f i :=
  ⟨fun h => h ▸ isFirstLeast_leastInk f, (isFirstLeast_leastInk f).unique⟩

theorem nearest_eq_iff (pal : Palette) (c : Chans Int) (i : Ink) :
    nearest pal c = i ↔ IsFirstLeast (inkDist pal c) i := leastInk_eq_iff _ i

/-- The six codes as grid bytes (41_dither.md R181). -/
theorem codeByte_inkCode_mem (i : Ink) :
    codeByte (inkCode i) ∈ [0x00#8, 0x01#8, 0x02#8, 0x03#8, 0x05#8, 0x06#8] := by cases i <;> decide

theorem inkGet_castVote (v : PerInk Nat) (i k : Ink) :
    inkGet (castVote v i) k = inkGet v k + if i = k then 1 else 0 := by
  cases i <;> cases k <;> rfl

/-- The votes of a list of pixels are counts. -/
theorem inkGet_foldl_castVote {α : Type} (g : α → Ink) (l : List α) (v : PerInk Nat) (k : Ink) :
    inkGet (l.foldl (fun v p => castVote v (g p)) v) k = inkGet v k + l.countP fun p => decide (g p = k) := by
  induction l generalizing v with
  | nil => simp
  | cons a l ih =>
    rw [List.foldl_cons, ih, inkGet_castVote, List.countP_cons]
    simp only [decide_eq_true_eq]
    omega

@[simp] theorem inkGet_noVotes (k : Ink) : inkGet noVotes k = 0 := by cases k <;> rfl

/-- A tile's votes for an entry (41_dither.md R210, R211). -/
theorem inkGet_votesOf (pal : Palette) (img : Nat → Nat → Chans Nat) (w h k : Nat) (i : Ink) :
    inkGet (votesOf pal img w h k) i =
      (blockOf 8 w h k).countP fun p => decide (nearest pal (chanInt (img p.1 p.2)) = i) := by
  rw [votesOf, inkGet_foldl_castVote (fun p : Nat × Nat => nearest pal (chanInt (img p.1 p.2)))]
  simp

/-- The dominant entry has the most votes, the first of those that have (R210, R212). -/
theorem dominant_spec (v : PerInk Nat) :
    (∀ k, inkGet v k ≤ inkGet v (dominant v)) ∧
      ∀ k, inkIndex k < inkIndex (dominant v) → inkGet v k < inkGet v (dominant v) := by
  obtain ⟨h1, h2⟩ := isFirstLeast_leastInk fun i => -((inkGet v i : Nat) : Int)
  exact ⟨fun k => by have := h1 k; rw [dominant]; dsimp only at this; omega,
    fun k hk => by have := h2 k hk; rw [dominant]; dsimp only at this; omega⟩

end Sys2Proof.Machine
end

