-- ==== Sys2Proof/Laws/Dither.lean ====
section
/-! SUPPORT. Laws of the dither arithmetic: pixels in row-major order, blocks of pixels, and what a code
depends on. -/

namespace Sys2Proof.Machine

/-! Row-major order (41_dither.md R191). -/

theorem rowMajor_mod {w x : Nat} (y : Nat) (h : x < w) : (y * w + x) % w = x := by
  rw [Nat.mul_comm, Nat.mul_add_mod, Nat.mod_eq_of_lt h]

theorem rowMajor_div {w x : Nat} (y : Nat) (h : x < w) : (y * w + x) / w = y := by
  rw [Nat.mul_comm, Nat.mul_add_div (by omega), Nat.div_eq_of_lt h, Nat.add_zero]

theorem rowMajor_lt {w h x y : Nat} (hx : x < w) (hy : y < h) : y * w + x < w * h := by
  have : (y + 1) * w ≤ h * w := Nat.mul_le_mul_right w hy
  rw [Nat.mul_comm w h]
  rw [Nat.succ_mul] at this
  omega

theorem column_lt {w h k : Nat} (hk : k < w * h) : k % w < w := Nat.mod_lt _ (by
  rcases Nat.eq_zero_or_pos w with rfl | hw
  · simp at hk
  · exact hw)

theorem row_lt {w h k : Nat} (hk : k < w * h) : k / w < h := Nat.div_lt_of_lt_mul hk

@[simp] theorem rowMajor_eq (w k : Nat) : k / w * w + k % w = k := by
  rw [Nat.mul_comm]; exact Nat.div_add_mod k w

/-! Blocks (R200, R210). -/

theorem mem_blockPixels {n w h i j : Nat} {p : Nat × Nat} :
    p ∈ blockPixels n w h i j →
      (n * i ≤ p.1 ∧ p.1 < n * i + n ∧ p.1 < w) ∧ (n * j ≤ p.2 ∧ p.2 < n * j + n ∧ p.2 < h) := by
  simp only [blockPixels, List.mem_filter, List.mem_flatMap, List.mem_range, List.mem_map, Bool.and_eq_true,
    decide_eq_true_eq]
  rintro ⟨⟨dy, hdy, dx, hdx, rfl⟩, h1, h2⟩
  simp only at *
  omega

theorem div_lt_ceilDiv {n w x : Nat} (hn : 0 < n) (hx : x < w) : x / n < ceilDiv w n := by
  rw [ceilDiv, Nat.div_lt_iff_lt_mul hn]
  have := Nat.lt_div_mul_add (a := w + n - 1) hn
  omega

theorem blockIndex_mod {n w x : Nat} (y : Nat) (hn : 0 < n) (hx : x < w) :
    blockIndex n w x y % blockCols n w = x / n := rowMajor_mod _ (div_lt_ceilDiv hn hx)

theorem blockIndex_div {n w x : Nat} (y : Nat) (hn : 0 < n) (hx : x < w) :
    blockIndex n w x y / blockCols n w = y / n := rowMajor_div _ (div_lt_ceilDiv hn hx)

theorem blockIndex_lt {n w h x y : Nat} (hn : 0 < n) (hx : x < w) (hy : y < h) :
    blockIndex n w x y < blockCount n w h := rowMajor_lt (div_lt_ceilDiv hn hx) (div_lt_ceilDiv hn hy)

/-- The block of a pixel. -/
theorem blockOf_blockIndex {n w x : Nat} (h y : Nat) (hn : 0 < n) (hx : x < w) :
    blockOf n w h (blockIndex n w x y) = blockPixels n w h (x / n) (y / n) := by
  rw [blockOf, blockIndex_mod y hn hx, blockIndex_div y hn hx]

/-- A block inside the image has all its `n` × `n` pixels. -/
theorem blockPixels_inside {n w h i j : Nat} (hw : n * i + n ≤ w) (hh : n * j + n ≤ h) :
    blockPixels n w h i j =
      (List.range n).flatMap fun dy => (List.range n).map fun dx => (n * i + dx, n * j + dy) := by
  rw [blockPixels, List.filter_eq_self]
  simp only [List.mem_flatMap, List.mem_range, List.mem_map, Bool.and_eq_true, decide_eq_true_eq]
  rintro p ⟨dy, hdy, dx, hdx, rfl⟩
  simp only
  omega

/-! What a code depends on (R214). -/

/-- Two images that agree inside W × H. -/
def ImagesAgree (w h : Nat) (a b : Nat → Nat → Chans Nat) : Prop := ∀ x y, x < w → y < h → a x y = b x y

theorem cellSum_congr {w h : Nat} {a b : Nat → Nat → Chans Nat} (hab : ImagesAgree w h a b) (k : Nat) :
    cellSum a w h k = cellSum b w h k := by
  rw [cellSum, cellSum]
  congr 1
  refine List.map_congr_left fun p hp => ?_
  obtain ⟨⟨-, -, h1⟩, -, -, h2⟩ := mem_blockPixels hp
  rw [hab _ _ h1 h2]

theorem foldl_congr_mem {α β : Type} {f g : β → α → β} {l : List α} (h : ∀ b, ∀ a ∈ l, f b a = g b a) (b : β) :
    l.foldl f b = l.foldl g b := by
  induction l generalizing b with
  | nil => rfl
  | cons a l ih =>
    rw [List.foldl_cons, List.foldl_cons, h b a (List.mem_cons_self ..)]
    exact ih (fun b c hc => h b c (List.mem_cons_of_mem _ hc)) _

theorem votesOf_congr {w h : Nat} {a b : Nat → Nat → Chans Nat} (hab : ImagesAgree w h a b) (pal : Palette) (k : Nat) :
    votesOf pal a w h k = votesOf pal b w h k := by
  refine foldl_congr_mem (fun v p hp => ?_) _
  obtain ⟨⟨-, -, h1⟩, -, -, h2⟩ := mem_blockPixels hp
  rw [hab _ _ h1 h2]

theorem fsBefore_congr {w h : Nat} {a b : Nat → Nat → Chans Nat} (hab : ImagesAgree w h a b) (pal : Palette) {k : Nat}
    (hk : k ≤ w * h) : fsBefore pal a w k = fsBefore pal b w k := by
  induction k with
  | zero => rfl
  | succ k ih => rw [fsBefore, fsBefore, ih (by omega), hab _ _ (column_lt (h := h) hk) (row_lt hk)]

/-! Filling memory byte by byte in increasing order (20_memory.md R99). -/

/-- `m` after bytes `f 0 .. f (k − 1)` are written from `base` on. -/
def fill (m : Memory) (base : Nat) (f : Nat → Byte) : Nat → Memory
  | 0 => m
  | k + 1 => (fill m base f k).write (base + k) (f k)

theorem wf_fill {m : Memory} (hm : Memory.wf m) (base : Nat) (f : Nat → Byte) (k : Nat) : Memory.wf (fill m base f k) := by
  induction k with
  | zero => exact hm
  | succ k ih => exact Memory.wf_write ih _ _

theorem read_fill {m : Memory} (hm : Memory.wf m) (base : Nat) (f : Nat → Byte) (k a : Nat) :
    (fill m base f k).read a = if base ≤ a ∧ a < base + k then f (a - base) else m.read a := by
  induction k with
  | zero => rw [if_neg (by omega)]; rfl
  | succ k ih =>
    rw [fill, Memory.read_write (wf_fill hm base f k), ih]
    by_cases h : base + k = a
    · subst h
      rw [if_pos rfl, if_pos (by omega), Nat.add_sub_cancel_left]
    · rw [if_neg h]
      by_cases h2 : base ≤ a ∧ a < base + k
      · rw [if_pos h2, if_pos (by omega)]
      · rw [if_neg h2, if_neg (by omega)]

/-- The new byte of a QUANTIZE command's destination (R100). -/
theorem newByte_quantize {i : Instr} (hi : isQuantize i = true) {o : Op} (pal : Palette) (m : Memory) {j : Nat}
    (hj : j < o.imgW * o.imgH) :
    newByte i o pal m (o.dst + j) = codeByte (modeCode i pal (pixelAt m o.src o.imgW) o.imgW o.imgH j) := by
  have hd : inDst i o (o.dst + j) = true := by
    cases i <;> first
      | exact absurd hi Bool.false_ne_true
      | exact (inRange_iff _ _ _).2 ⟨Nat.le_add_right _ _, Nat.add_lt_add_left hj _⟩
  simp only [newByte, hd, if_true, Nat.add_sub_cancel_left]
  cases i <;> first
    | exact absurd hi Bool.false_ne_true
    | rfl

/-- Memories that agree on an Image give the same pixels. -/
theorem pixelAt_congr {m n : Memory} {s w h : Nat}
    (hmn : ∀ a, s ≤ a → a < s + 3 * (w * h) → m.read a = n.read a) :
    ImagesAgree w h (pixelAt m s w) (pixelAt n s w) := fun x y hx hy => by
  have := rowMajor_lt hx hy
  simp only [pixelAt]
  rw [hmn _ (by omega) (by omega), hmn _ (by omega) (by omega), hmn _ (by omega) (by omega)]

/-! The Floyd-Steinberg accumulators (41_dither.md R190, R192). -/

@[simp] theorem length_addAt (l : List Int) (k : Nat) (d : Int) : (addAt l k d).length = l.length := by simp [addAt]

/-- Adding to one element changes that element alone. -/
theorem accAt_addAt (l : List Int) (k : Nat) (d : Int) (j : Nat) :
    accAt (addAt l k d) j = accAt l j + if j = k ∧ k < l.length then d else 0 := by
  simp only [accAt, addAt, List.getD_eq_getElem?_getD, List.getElem?_modify]
  by_cases hk : k = j
  · subst hk
    by_cases hl : k < l.length
    · simp [hl]
    · simp [hl]
  · simp [hk, Ne.symm hk]

@[simp] theorem length_zeroRow (w : Nat) : (zeroRow w).length = w + 2 := by simp [zeroRow]

@[simp] theorem accAt_zeroRow (w j : Nat) : accAt (zeroRow w) j = 0 := by
  simp only [accAt, zeroRow, List.getD_eq_getElem?_getD, List.getElem?_replicate]
  split <;> rfl

theorem clampByte_range (v : Int) : 0 ≤ clampByte v ∧ clampByte v ≤ 255 := by
  simp only [clampByte, clampInt]
  split_ifs <;> omega

/-- The error of each channel lies in -255..255 (R192). -/
theorem fsError_range (pal : Palette) (o : Chans Nat) (acc : FsAcc) (x : Nat) :
    (-255 ≤ (fsError pal o acc x).r ∧ (fsError pal o acc x).r ≤ 255) ∧
    (-255 ≤ (fsError pal o acc x).g ∧ (fsError pal o acc x).g ≤ 255) ∧
    (-255 ≤ (fsError pal o acc x).b ∧ (fsError pal o acc x).b ≤ 255) := by
  have bound : ∀ (v : Int) (b : Byte), -255 ≤ clampByte v - (b.toNat : Int) ∧ clampByte v - (b.toNat : Int) ≤ 255 := by
    intro v b
    have h := clampByte_range v
    have := b.isLt
    omega
  exact ⟨bound _ _, bound _ _, bound _ _⟩

end Sys2Proof.Machine
end

