-- ==== Sys2Proof/Laws/Engine.lean ====
section
/-! SUPPORT. Runs of the engine: composition, loops, and the one place where a running command's step is
its body's. -/

namespace Sys2Proof.Machine

/-- A running command's engine step is its body's step. -/
theorem engineStep_eq {i : Instr} {s : State} (hb : s.busy = true) (hd : decode s.op.word = .ok i)
    (hf : rangesFit i s.op s.par.memSize = true) : engineStep s = bodyOf i s := by
  simp [engineStep, hb, hd, hf]

theorem engineStep_idle {s : State} (hb : s.busy = false) : engineStep s = .next s := by simp [engineStep, hb]

/-- What an engine step that answers a next state is. -/
theorem engineStep_next_cases {s t : State} (h : engineStep s = .next t) :
    (s.busy = false ∧ t = s) ∨
    (s.busy = true ∧ ∃ i, decode s.op.word = .ok i ∧ rangesFit i s.op s.par.memSize = true ∧
      bodyOf i s = .next t) := by
  unfold engineStep at h
  split at h
  · next hb =>
    split at h
    · next i hd =>
      split at h
      · next hf => exact .inr ⟨hb, i, hd, hf, h⟩
      · cases h
    · cases h
  · next hb => exact .inl ⟨by simpa using hb, by injection h with h; exact h.symm⟩

@[simp] theorem engineRun_zero (s : State) : engineRun 0 s = .next s := rfl

theorem engineRun_succ {n : Nat} {s t : State} (h : engineStep s = .next t) :
    engineRun (n + 1) s = engineRun n t := by simp [engineRun, h]

/-- One run after another. -/
theorem engineRun_trans {m n : Nat} {s t u : State} (h₁ : engineRun m s = .next t)
    (h₂ : engineRun n t = .next u) : engineRun (m + n) s = .next u := by
  induction m generalizing s with
  | zero => cases h₁; simpa using h₂
  | succ m ih =>
    rw [Nat.succ_add]
    simp only [engineRun] at h₁ ⊢
    split at h₁
    · exact ih h₁
    · cases h₁
    · cases h₁

/-- A loop: each state of a sequence steps to the next one. -/
theorem engineRun_loop (f : Nat → State) (n : Nat) (h : ∀ k, k < n → engineStep (f k) = .next (f (k + 1))) :
    engineRun n (f 0) = .next (f n) := by
  induction n with
  | zero => rfl
  | succ n ih =>
    refine engineRun_trans (ih fun k hk => h k (by omega)) ?_
    rw [engineRun_succ (h n (by omega))]
    rfl

/-- A loop that another step ends. -/
theorem engineRun_loop_then (f : Nat → State) (n : Nat) {u : State}
    (h : ∀ k, k < n → engineStep (f k) = .next (f (k + 1))) (hu : engineStep (f n) = .next u) :
    engineRun (n + 1) (f 0) = .next u :=
  engineRun_trans (engineRun_loop f n h) (by rw [engineRun_succ hu]; rfl)

end Sys2Proof.Machine
end

