-- ==== Sys2Proof/Laws/HostPort.lean ====
section
/-! SUPPORT. What a host access can do, said once: it changes only what the host owns, or presents a word
to an idle engine, or stores a byte, or resets the engine. -/

namespace Sys2Proof.Machine

/-- `t` is `s` but for the operand registers, DROPPED, and the host's side of the state. -/
def HostOwnOnly (s t : State) : Prop :=
  t = { s with
    imgDim := t.imgDim, srcAddr := t.srcAddr, dstAddr := t.dstAddr, winXY := t.winXY, winWH := t.winWH
    matchRgb := t.matchRgb, bufLen := t.bufLen, busyTimeout := t.busyTimeout, dropped := t.dropped
    free := t.free, host := t.host, turns := t.turns, accesses := t.accesses }

/-- A word that an idle engine takes: an error at accept, MATCH, or a command that starts. -/
def Presented (s t : State) : Prop :=
  (∃ w e, e ≠ .noError ∧ t = raise e (latch w (clearFlags s))) ∨
  t = performMatch (latched .matchRgb s) ∨
  ∃ i, i ≠ .matchRgb ∧ firstFailing (checksOf i (latched i s)) = none ∧
    t = launch (startPosition i s.par) (latched i s)

/-- A command presented to an idle engine. -/
theorem presented_accept {s : State} (hb : s.busy = false) (i : Instr) :
    Presented s (accept i (checksOf i) (startOf i) s) := by
  rcases hf : firstFailing (checksOf i (latched i s)) with _ | e
  · rw [accept_started hb hf]
    by_cases hi : i = .matchRgb
    · subst hi
      exact .inr (.inl rfl)
    · refine .inr (.inr ⟨i, hi, hf, ?_⟩)
      cases i <;> first
        | rfl
        | exact absurd rfl hi
  · exact .inl ⟨_, e, checksOf_codes i _ _ (mem_of_firstFailing hf), accept_rejected hb hf⟩

/-- A store to CMD. -/
theorem writeCmd_cases {w : Word} {s t : State} (h : writeCmd w s = .next t) :
    (s.busy = true ∧ t = { s with dropped := true }) ∨ (s.busy = false ∧ Presented s t) := by
  unfold writeCmd at h
  split at h
  · next i hd =>
    rw [exec_eq] at h
    injection h with h
    by_cases hb : s.busy = true
    · exact .inl ⟨hb, by rw [← h, accept_busy hb]⟩
    · rw [Bool.not_eq_true] at hb
      exact .inr ⟨hb, h ▸ presented_accept hb i⟩
  · next e hd =>
    injection h with h
    by_cases hb : s.busy = true
    · exact .inl ⟨hb, by rw [← h, rejectWord, present_busy hb]⟩
    · rw [Bool.not_eq_true] at hb
      rw [rejectWord, present_idle hb] at h
      refine .inr ⟨hb, .inl ?_⟩
      cases e with
      | badCommand => exact ⟨w, .badCommand, nofun, h.symm⟩
      | badMode => exact ⟨w, .badMode, nofun, h.symm⟩

/-- What a presented word leaves (10_state.md R61, 60_exceptions.md R316). -/
theorem Presented.frame {s t : State} (h : Presented s t) :
    t.par = s.par ∧ t.mem = s.mem ∧ t.pstate = s.pstate ∧ t.rstOut = s.rstOut ∧ t.dropped = s.dropped ∧
      t.trace = s.trace ∧ t.levels = s.levels ∧ t.acceptMem = s.mem ∧ t.acceptPState = s.pstate := by
  rcases h with ⟨w, e, -, rfl⟩ | rfl | ⟨i, -, -, rfl⟩ <;> exact ⟨rfl, rfl, rfl, rfl, rfl, rfl, rfl, rfl, rfl⟩

/-- A store to any register. -/
theorem regWrite_cases {off : Nat} {v : Word} {s t : State} (h : regWrite off v s = .next t) :
    (HostOwnOnly s t ∧ (s.dropped = true → t.dropped = true ∨ (off = 0x04 ∧ v.getLsbD 11 = true))) ∨
    (off = 0x00 ∧ s.busy = false ∧ Presented s t) := by
  unfold regWrite at h
  split at h
  · rcases writeCmd_cases h with ⟨hb, rfl⟩ | hp
    · exact .inl ⟨rfl, fun _ => .inl rfl⟩
    · exact .inr ⟨rfl, hp⟩
  · injection h with h
    subst h
    refine .inl ⟨?_, fun hd => ?_⟩
    · unfold writeStatus; split <;> rfl
    · unfold writeStatus
      split
      · next hv => exact .inr ⟨rfl, hv⟩
      · exact .inl hd
  all_goals
    injection h with h
    subst h
    exact .inl ⟨rfl, fun hd => .inl hd⟩

/-- Any access. -/
theorem hostAccess_cases {o : HostOp} {s t : State} (h : hostAccess o s = .next t) :
    (HostOwnOnly s t ∧
      (s.dropped = true → t.dropped = true ∨ ∃ v : Word, v.getLsbD 11 = true ∧ o = .store 0x04 4 v)) ∨
    (∃ w, o = .store 0x00 4 w ∧ s.busy = false ∧ Presented (logAccess (.stored 0x00 w) s) t) ∨
    (∃ a b, o = .memStore a b ∧ a < s.par.memSize ∧ inRunningRange s a = false ∧ t = hostMemStore a b s) ∨
    (o = .powerCycle ∧ t = logAccess .powerCycled (engineReset s)) := by
  cases o with
  | store off bytes v =>
    simp only [hostAccess] at h
    split at h
    · cases h
    · next hr =>
      have hb : bytes = 4 := by
        by_contra hb
        simp [regAccessRefused, hb] at hr
      rcases regWrite_cases h with ⟨h1, h2⟩ | ⟨rfl, h1, h2⟩
      · refine .inl ⟨h1, fun hd => (h2 hd).imp id ?_⟩
        rintro ⟨rfl, hv⟩
        exact ⟨v, hv, by rw [hb]⟩
      · exact .inr (.inl ⟨v, by rw [hb], h1, h2⟩)
  | load off bytes =>
    simp only [hostAccess] at h
    split at h
    · cases h
    · injection h with h; subst h; exact .inl ⟨rfl, fun hd => .inl hd⟩
  | wait =>
    simp only [hostAccess] at h
    injection h with h; subst h
    refine .inl ⟨?_, fun hd => .inl ?_⟩ <;> split <;> first | rfl | exact hd
  | memStore a b =>
    simp only [hostAccess] at h
    split at h
    · cases h
    · next ha =>
      split at h
      · cases h
      · next hr =>
        injection h with h
        exact .inr (.inr (.inl ⟨a, b, rfl, by omega, by simpa using hr, h.symm⟩))
  | memLoad a =>
    simp only [hostAccess] at h
    split at h
    · cases h
    · injection h with h; subst h; exact .inl ⟨rfl, fun hd => .inl hd⟩
  | powerCycle =>
    simp only [hostAccess] at h
    injection h with h
    exact .inr (.inr (.inr ⟨rfl, h.symm⟩))

/-- What a store to a register does to DROPPED (R35, R41). -/
theorem regWrite_dropped {off : Nat} {v : Word} {s t : State} (h : regWrite off v s = .next t) :
    t.dropped =
      if off = 0x00 then s.busy || s.dropped
      else if off = 0x04 then s.dropped && !v.getLsbD 11
      else s.dropped := by
  unfold regWrite at h
  split at h
  · rcases writeCmd_cases h with ⟨hb, rfl⟩ | ⟨hb, hp⟩
    · simp [hb]
    · simp [hb, hp.frame.2.2.2.2.1]
  · injection h with h
    subst h
    unfold writeStatus
    split <;> next hv =>
      cases hd : v.getLsbD 11 <;> simp_all
  · injection h with h
    subst h
    rfl
  · injection h with h
    subst h
    rfl
  · injection h with h
    subst h
    rfl
  · injection h with h
    subst h
    rfl
  · injection h with h
    subst h
    rfl
  · injection h with h
    subst h
    rfl
  · injection h with h
    subst h
    rfl
  · injection h with h
    subst h
    rfl
  · next h0 h4 _ _ _ _ _ _ _ _ =>
    injection h with h
    subst h
    rw [if_neg h0, if_neg h4]

/-- DROPPED after an access (R35, R41, R350). -/
def droppedAfter (o : HostOp) (s : State) : Bool :=
  match o with
  | .store off _ v =>
    if off = 0x00 then s.busy || s.dropped
    else if off = 0x04 then s.dropped && !v.getLsbD 11
    else s.dropped
  | .powerCycle => false
  | .load _ _ | .wait | .memStore _ _ | .memLoad _ => s.dropped

theorem hostAccess_dropped {o : HostOp} {s t : State} (h : hostAccess o s = .next t) :
    t.dropped = droppedAfter o s := by
  cases o with
  | store off bytes v =>
    simp only [hostAccess] at h
    split at h
    · cases h
    · have e := regWrite_dropped h
      exact e
  | load off bytes =>
    simp only [hostAccess] at h
    split at h <;> cases h
    rfl
  | wait =>
    simp only [hostAccess] at h
    cases h
    split <;> rfl
  | memStore a b =>
    simp only [hostAccess] at h
    (repeat' split at h) <;> cases h
    rfl
  | memLoad a =>
    simp only [hostAccess] at h
    split at h <;> cases h
    rfl
  | powerCycle =>
    simp only [hostAccess] at h
    cases h
    rfl

/-- What a step is: the host's next access, an idle host's step, or an engine step. -/
theorem step_cases {s t : State} (h : step s = .next t) :
    (nextAgent s = .host ∧ s.host = [] ∧ t = takeTurn s) ∨
    (∃ o rest, nextAgent s = .host ∧ s.host = o :: rest ∧ hostAccess o { takeTurn s with host := rest } = .next t) ∨
    (nextAgent s = .engine ∧ engineStep (takeTurn s) = .next t) := by
  unfold step at h
  rcases ha : nextAgent s with _ | _ <;> simp only [ha, agentStep] at h
  · unfold hostStep at h
    split at h
    · next he =>
      injection h with h
      exact .inl ⟨rfl, he, h.symm⟩
    · next o rest he => exact .inr (.inl ⟨o, rest, rfl, he, h⟩)
  · exact .inr (.inr ⟨rfl, h⟩)

end Sys2Proof.Machine
end

