-- ==== Sys2Proof/Laws/Pack.lean ====
section
/-! SUPPORT. The steps of PACK's body and of the display commands' validation. -/

namespace Sys2Proof.Machine

theorem nibbles_high (a b : BitVec 4) : highNibble (nibbles a b) = a := by
  revert a b; decide

theorem nibbles_low (a b : BitVec 4) : lowNibble (nibbles a b) = b := by
  revert a b; decide

/-- `valid_byte` is membership in the six codes (42_packer.md R231). -/
theorem validByte_iff (b : Byte) : validByte b = true ↔ b ∈ [0x00#8, 0x01#8, 0x02#8, 0x03#8, 0x05#8, 0x06#8] := by
  revert b; decide

theorem gridValid_iff (o : Op) (m : Memory) :
    gridValid o m = true ↔ ∀ k, k < o.gridBytes → validByte (m.read (o.src + k)) = true := by
  simp [gridValid]

/-- A grid byte that is a code passes the validation. -/
theorem body_packCheck {s : State} {k : Nat} (hq : s.seq = .check k) (hk : k < s.op.gridBytes)
    (hv : validByte (s.mem.read (s.op.src + k)) = true) :
    bodyOf .pack s = .next { s with seq := .check (k + 1) } := by
  simp only [bodyOf, bodyPack, hq, packCheckStep, hk, if_true, hv]

/-- A grid byte that is none ends the command (R230, R315). -/
theorem body_packCheck_bad {s : State} {k : Nat} (hq : s.seq = .check k) (hk : k < s.op.gridBytes)
    (hv : validByte (s.mem.read (s.op.src + k)) = false) :
    bodyOf .pack s = .next (raise .badIndex s) := by
  simp [bodyOf, bodyPack, hq, packCheckStep, hk, hv]

/-- After the last grid byte the write pass begins. -/
theorem body_packCheck_end {s : State} {k : Nat} (hq : s.seq = .check k) (hk : ¬ k < s.op.gridBytes) :
    bodyOf .pack s = .next { s with seq := .packByte 0 } := by
  simp only [bodyOf, bodyPack, hq, packCheckStep, hk, if_false]

/-- The write pass writes FrameBuffer byte `k` (R230, R235). -/
theorem body_packByte {s : State} {k : Nat} (hq : s.seq = .packByte k) (hk : k < s.op.frameBytes) :
    bodyOf .pack s = .next
      { s with
        mem := s.mem.write (s.op.dst + k)
          (packedByte (gridAt s.mem s.op.src s.op.imgW) s.op.imgW (k / s.op.stride) (k % s.op.stride))
        seq := .packByte (k + 1) } := by
  simp only [bodyOf, bodyPack, hq, packByteStep, hk, if_true, rowMajor_eq]

/-- After the last FrameBuffer byte the command completes; RESULT is the FrameBuffer's length. -/
theorem body_packByte_end {s : State} {k : Nat} (hq : s.seq = .packByte k) (hk : ¬ k < s.op.frameBytes) :
    bodyOf .pack s = .next (complete (some s.op.frameBytes) s) := by
  simp only [bodyOf, bodyPack, hq, packByteStep, hk, if_false]

/-- FrameBuffer byte (k, y) reads only grid bytes of row y. -/
theorem packedByte_congr {g g' : Nat → Nat → Byte} {w y k : Nat} (hk : k < ceilDiv w 2)
    (h : ∀ x, x < w → g x y = g' x y) : packedByte g w y k = packedByte g' w y k := by
  have hk' : k < (w + 1) / 2 := hk
  rw [packedByte, packedByte, h (2 * k) (by omega)]
  split
  · next hx => rw [h _ hx]
  · rfl

/-- The new byte of PACK's destination (20_memory.md R100). -/
theorem newByte_pack {o : Op} (pal : Palette) {m : Memory} (hv : gridValid o m = true) {j : Nat} (hj : j < o.frameBytes) :
    newByte .pack o pal m (o.dst + j) =
      packedByte (gridAt m o.src o.imgW) o.imgW (j / o.stride) (j % o.stride) := by
  have hd : inDst .pack o (o.dst + j) = true :=
    (inRange_iff _ _ _).2 ⟨Nat.le_add_right _ _, Nat.add_lt_add_left hj _⟩
  simp only [newByte, hd, if_true, hv, Nat.add_sub_cancel_left]

/-- `valid_pair`, nibble by nibble (43_panel.md R277). -/
theorem validPair_iff (b : Byte) : validPair b = true ↔
    b.extractLsb' 4 4 ∈ [0#4, 1#4, 2#4, 3#4, 5#4, 6#4] ∧ b.extractLsb' 0 4 ∈ [0#4, 1#4, 2#4, 3#4, 5#4, 6#4] := by
  revert b; decide

end Sys2Proof.Machine
end

