-- ==== Sys2Proof/Laws/Panel.lean ====
section
/-! SUPPORT. What the busy-wait, the step lists and the transfer loops do on pending busy levels, as runs
of the engine (43_panel.md R255, R256, R265). -/

namespace Sys2Proof.Machine

/-- The positions of a step list. -/
def IsListPosition : Seq → Prop
  | .steps _ | .poll _ | .polled _ | .finish => True
  | _ => False

/-- Command `i` runs its step lists as `listBody` does, ending in PSTATE `after` and giving RESULT `r`. -/
def RunsLists (i : Instr) (after : PState) (r : Op → Option Nat) : Prop :=
  ∀ t : State, IsListPosition t.seq → bodyOf i t = listBody after (r t.op) t

theorem runsLists_panelInit : RunsLists .panelInit .initialized fun _ => none := fun _ _ => rfl

theorem runsLists_panelSleep : RunsLists .panelSleep .sleeping fun _ => none := fun _ _ => rfl

theorem runsLists_panelFull : RunsLists .panelFull .initialized fun o => some o.len := fun t h => by
  show bodyPanelFull t = _
  unfold bodyPanelFull transferBody
  rcases hq : t.seq <;> simp [hq, IsListPosition] at h ⊢

theorem runsLists_panelPartial : RunsLists .panelPartial .initialized fun o => some o.len := fun t h => by
  show bodyPanelPartial t = _
  unfold bodyPanelPartial transferBody
  rcases hq : t.seq <;> simp [hq, IsListPosition] at h ⊢

theorem runsLists_panelBlank (c : Code) : RunsLists (.panelBlank c) .initialized fun o => some o.windowBytes :=
  fun t h => by
    show bodyPanelBlank c t = _
    unfold bodyPanelBlank transferBody
    rcases hq : t.seq <;> simp [hq, IsListPosition] at h ⊢

/-- Command `i` runs in `s`: BUSY is 1, the latched word is `i`'s, and its ranges are in data memory. -/
structure Runs (i : Instr) (s : State) : Prop where
  busy : s.busy = true
  word : decode s.op.word = .ok i
  fits : rangesFit i s.op s.par.memSize = true

theorem Runs.step {i : Instr} {s : State} (h : Runs i s) : engineStep s = bodyOf i s :=
  engineStep_eq h.busy h.word h.fits

/-- `s` at another position, with more events issued, other levels left and another poll count. -/
def atBus (s : State) (q : Seq) (ev : List BusEvent) (ls : List Level) (n : Nat) : State :=
  { s with seq := q, trace := ev.reverse ++ s.trace, levels := ls, polls := n }

theorem Runs.atBus {i : Instr} {s : State} (h : Runs i s) (q : Seq) (ev : List BusEvent) (ls : List Level) (n : Nat) :
    Runs i (atBus s q ev ls n) := ⟨h.busy, h.word, h.fits⟩

@[simp] theorem atBus_atBus (s : State) (q q' : Seq) (ev ev' : List BusEvent) (ls ls' : List Level) (n n' : Nat) :
    atBus (atBus s q ev ls n) q' ev' ls' n' = atBus s q' (ev ++ ev') ls' n' := by
  simp [atBus]

@[simp] theorem busTrace_atBus (s : State) (q : Seq) (ev : List BusEvent) (ls : List Level) (n : Nat) :
    busTrace (atBus s q ev ls n) = busTrace s ++ ev := by simp [busTrace, atBus]

/-- `s` at its own position. -/
theorem atBus_self (s : State) : atBus s s.seq [] s.levels s.polls = s := rfl

section lists
variable {i : Instr} {after : PState} {r : Op → Option Nat}

/-- A poll of a pending level. -/
theorem pollStep_cons (s : State) (todo : List PanelStep) (l : Level) (rest : List Level) (n : Nat) :
    pollStep todo (atBus s (.poll todo) [] (l :: rest) n) =
      if l = s.par.busyActive then atBus s (.polled todo) [.poll l] rest (n + 1)
      else atBus s (.steps todo) [.poll l] rest n := by
  unfold pollStep
  split <;> next h =>
    have hl : l = s.par.busyActive ∨ l ≠ s.par.busyActive := Classical.em _
    simp only [busyLevel, atBus] at h
    simp only [h, if_true, if_false]
    rfl

/-- A busy-wait that the pending levels end (R256): at an idle level it goes on with the list, at the bound it
is about to time out. -/
theorem wait_run (hl : RunsLists i after r) (todo : List PanelStep) (ls : List Level) :
    ∀ {s : State} {n : Nat} {ev : List BusEvent} {rest : List Level} {out : Bool}, Runs i s →
      waitEvents s.par.busyActive s.op.timeout n ls = some (ev, rest, out) →
      ∃ m p, engineRun m (atBus s (.poll todo) [] ls n) =
          .next (atBus s (if out then .polled todo else .steps todo) ev rest p) ∧
        (out = true → s.op.timeout ≠ 0 ∧ s.op.timeout ≤ p) := by
  induction ls with
  | nil => intro s n ev rest out _ h; cases h
  | cons l ls ih =>
    intro s n ev rest out hr h
    have hstep : engineStep (atBus s (.poll todo) [] (l :: ls) n) =
        .next (pollStep todo (atBus s (.poll todo) [] (l :: ls) n)) := by
      rw [(hr.atBus _ _ _ _).step, hl (atBus s (.poll todo) [] (l :: ls) n) trivial]
      rfl
    rw [pollStep_cons] at hstep
    simp only [waitEvents] at h
    split at h
    · next hne =>
      rw [if_neg hne] at hstep
      simp only [Option.some.injEq, Prod.mk.injEq] at h
      obtain ⟨rfl, rfl, rfl⟩ := h
      exact ⟨1, n, by rw [engineRun_succ hstep]; rfl, nofun⟩
    · next heq =>
      rw [if_pos (not_not.1 heq)] at hstep
      split at h
      · next hk =>
        simp only [Option.some.injEq, Prod.mk.injEq] at h
        obtain ⟨rfl, rfl, rfl⟩ := h
        exact ⟨1, n + 1, by rw [engineRun_succ hstep]; rfl, fun _ => hk⟩
      · next hk =>
        obtain ⟨⟨ev', rest', out'⟩, h1, h2⟩ := Option.map_eq_some_iff.1 h
        simp only [Prod.mk.injEq] at h2
        obtain ⟨rfl, rfl, rfl⟩ := h2
        have hd : engineStep (atBus s (.polled todo) [.poll l] ls (n + 1)) =
            .next (atBus s (.poll todo) [.poll l, .delay .pollInterval] ls (n + 1)) := by
          rw [(hr.atBus _ _ _ _).step, hl (atBus s (.polled todo) [.poll l] ls (n + 1)) trivial]
          have hp : pollsExhausted (atBus s (.polled todo) [.poll l] ls (n + 1)) = false := by
            rw [← Bool.not_eq_true]
            simp only [pollsExhausted, Bool.and_eq_true, decide_eq_true_eq]
            exact hk
          show Host.Outcome.next (polledStep todo (atBus s (.polled todo) [.poll l] ls (n + 1))) = _
          rw [polledStep, hp]
          rfl
        obtain ⟨m, p, h3, h4⟩ := ih (hr.atBus (.poll todo) [.poll l, .delay .pollInterval] ls (n + 1)) h1
        rw [atBus_atBus, atBus_atBus] at h3
        exact ⟨m + 1 + 1, p, by rw [engineRun_succ hstep, engineRun_succ hd]; exact h3, h4⟩

/-- A step list that the pending levels decide (R255): to the command's last step, or to a timeout. -/
theorem list_run (hl : RunsLists i after r) (todo : List PanelStep) :
    ∀ {s : State} {ls : List Level} {n : Nat} {ev : List BusEvent} {rest : List Level} {out : Bool}, Runs i s →
      listEvents s.par.busyActive s.op.timeout todo ls = some (ev, rest, out) →
      ∃ m p, if out then
          (∃ more, engineRun m (atBus s (.steps todo) [] ls n) = .next (atBus s (.polled more) ev rest p)) ∧
            s.op.timeout ≠ 0 ∧ s.op.timeout ≤ p
        else engineRun m (atBus s (.steps todo) [] ls n) =
          .next { atBus s .finish ev rest p with pstate := after } := by
  induction todo with
  | nil =>
    intro s ls n ev rest out hr h
    simp only [listEvents, Option.some.injEq, Prod.mk.injEq] at h
    obtain ⟨rfl, rfl, rfl⟩ := h
    refine ⟨1, n, ?_⟩
    have hstep : engineStep (atBus s (.steps []) [] ls n) =
        .next { atBus s .finish [] ls n with pstate := after } := by
      rw [(hr.atBus _ _ _ _).step, hl (atBus s (.steps []) [] ls n) trivial]
      rfl
    simp only [Bool.false_eq_true, if_false]
    rw [engineRun_succ hstep]
    rfl
  | cons x todo ih =>
    intro s ls n ev rest out hr h
    have frame : ∀ e : BusEvent,
        engineStep (atBus s (.steps (x :: todo)) [] ls n) = .next (atBus s (.steps todo) [e] ls n) →
        (listEvents s.par.busyActive s.op.timeout todo ls).map (fun q => (e :: q.1, q.2)) = some (ev, rest, out) →
        ∃ m p, if out then
            (∃ more, engineRun m (atBus s (.steps (x :: todo)) [] ls n) = .next (atBus s (.polled more) ev rest p)) ∧
              s.op.timeout ≠ 0 ∧ s.op.timeout ≤ p
          else engineRun m (atBus s (.steps (x :: todo)) [] ls n) =
            .next { atBus s .finish ev rest p with pstate := after } := by
      intro e hstep hev
      obtain ⟨⟨ev', rest', out'⟩, h1, h2⟩ := Option.map_eq_some_iff.1 hev
      simp only [Prod.mk.injEq] at h2
      obtain ⟨rfl, rfl, rfl⟩ := h2
      obtain ⟨m, p, h3⟩ := ih (n := n) (hr.atBus (.steps todo) [e] ls n) h1
      refine ⟨m + 1, p, ?_⟩
      simp only [atBus_atBus, List.singleton_append, List.append_nil] at h3
      rw [engineRun_succ hstep]
      exact h3
    cases x with
    | cmd b =>
      refine frame (.cmd b) ?_ h
      rw [(hr.atBus _ _ _ _).step, hl (atBus s (.steps (.cmd b :: todo)) [] ls n) trivial]
      rfl
    | data b =>
      refine frame (.data b) ?_ h
      rw [(hr.atBus _ _ _ _).step, hl (atBus s (.steps (.data b :: todo)) [] ls n) trivial]
      rfl
    | waitBusy =>
      have hstep : engineStep (atBus s (.steps (.waitBusy :: todo)) [] ls n) = .next (atBus s (.poll todo) [] ls 0) := by
        rw [(hr.atBus _ _ _ _).step, hl (atBus s (.steps (.waitBusy :: todo)) [] ls n) trivial]
        rfl
      simp only [listEvents] at h
      split at h
      · cases h
      · next ev' ls' hw =>
        simp only [Option.some.injEq, Prod.mk.injEq] at h
        obtain ⟨rfl, rfl, rfl⟩ := h
        obtain ⟨m, p, h3, h4⟩ := wait_run hl todo ls hr hw
        exact ⟨m + 1, p, ⟨todo, by rw [engineRun_succ hstep]; exact h3⟩, h4 rfl⟩
      · next ev' ls' hw =>
        obtain ⟨⟨ev2, rest2, out2⟩, h1, h2⟩ := Option.map_eq_some_iff.1 h
        simp only [Prod.mk.injEq] at h2
        obtain ⟨rfl, rfl, rfl⟩ := h2
        obtain ⟨m, p, h3, -⟩ := wait_run hl todo ls hr hw
        obtain ⟨m2, p2, h5⟩ := ih (n := p) (hr.atBus (.steps todo) ev' ls' p) h1
        refine ⟨m + 1 + m2, p2, ?_⟩
        have h3' : engineRun (m + 1) (atBus s (.steps (.waitBusy :: todo)) [] ls n) =
            .next (atBus s (.steps todo) ev' ls' p) := by rw [engineRun_succ hstep]; exact h3
        simp only [atBus_atBus, List.append_nil] at h5
        cases out2 with
        | true =>
          obtain ⟨⟨more, h6⟩, h7⟩ := h5
          exact ⟨⟨more, engineRun_trans h3' h6⟩, h7⟩
        | false => exact engineRun_trans h3' h5

/-! Transfers (R276, R282, R288). -/

/-- The positions of a transfer before its step list. -/
def IsTransferPosition : Seq → Prop
  | .transmit | .header _ | .data _ | .refresh => True
  | _ => False

/-- Command `i`, as it runs in `s`, sends the events `frames` and then the `n` bytes `byte`. -/
def Sends (i : Instr) (frames : List BusEvent) (n : Nat) (byte : Nat → Byte) (s : State) : Prop :=
  ∀ t : State, t.par = s.par → t.op = s.op → t.mem = s.mem → IsTransferPosition t.seq →
    bodyOf i t = transferBody frames n byte t

theorem sends_panelFull (s : State) : Sends .panelFull (dataFrame s.par) s.op.len (bufferByte s) s :=
  fun t hp ho hm h => by
    show bodyPanelFull t = _
    have hb : bufferByte t = bufferByte s := by funext k; simp only [bufferByte, ho, hm]
    unfold bodyPanelFull
    rw [hp, ho, hb]
    rcases hq : t.seq <;> simp [hq, IsTransferPosition] at h ⊢

theorem sends_panelPartial (s : State) :
    Sends .panelPartial (windowFrame s.par s.op ++ dataFrame s.par) s.op.len (bufferByte s) s :=
  fun t hp ho hm h => by
    show bodyPanelPartial t = _
    have hb : bufferByte t = bufferByte s := by funext k; simp only [bufferByte, ho, hm]
    unfold bodyPanelPartial
    rw [hp, ho, hb]
    rcases hq : t.seq <;> simp [hq, IsTransferPosition] at h ⊢

theorem sends_panelBlank (c : Code) (s : State) :
    Sends (.panelBlank c) (dataFrame s.par) s.op.windowBytes (fun _ => fillByte c) s := fun t hp ho _ _ => by
  show bodyPanelBlank c t = _
  rw [bodyPanelBlank, hp, ho]

/-- A transfer, from its first event to its step list. -/
theorem transfer_run {frames : List BusEvent} {n : Nat} {byte : Nat → Byte} {s : State} (hr : Runs i s)
    (hs : Sends i frames n byte s) (hq : s.seq = .transmit) :
    ∃ m, engineRun m s = .next
      { atBus s (.steps s.par.refreshSeq) (frames ++ dataEvents n byte) s.levels s.polls with pstate := .refreshing } := by
  let sent : Seq → List BusEvent → State := fun q ev => { atBus s q ev s.levels s.polls with pstate := .transmitting }
  have hsent : ∀ q ev, Runs i (sent q ev) := fun q ev => ⟨hr.busy, hr.word, hr.fits⟩
  have hbody : ∀ q ev, IsTransferPosition q →
      engineStep (sent q ev) = transferBody frames n byte (sent q ev) := fun q ev h => by
    rw [(hsent q ev).step, hs (sent q ev) rfl rfl rfl h]
  have h0 : engineStep s = .next (sent (.header 0) []) := by
    rw [hr.step, hs s rfl rfl rfl (by rw [hq]; trivial), transferBody, hq]
    rfl
  have h1 : engineRun frames.length (sent (.header 0) (frames.take 0)) =
      .next (sent (.header frames.length) (frames.take frames.length)) :=
    engineRun_loop (fun k => sent (.header k) (frames.take k)) frames.length fun k hk => by
      rw [hbody (.header k) _ trivial]
      show Host.Outcome.next (headerStep frames k (sent (.header k) (frames.take k))) = _
      show _ = Host.Outcome.next (sent (.header (k + 1)) (frames.take (k + 1)))
      rw [headerStep, List.getElem?_eq_getElem hk, List.take_succ_eq_append_getElem hk]
      simp only [sent, emit, atBus, List.reverse_append, List.reverse_singleton, List.nil_append,
        List.cons_append]
  have h2 : engineStep (sent (.header frames.length) frames) = .next (sent (.data 0) frames) := by
    rw [hbody (.header frames.length) _ trivial]
    show Host.Outcome.next (headerStep frames frames.length (sent (.header frames.length) frames)) = _
    rw [headerStep, List.getElem?_eq_none (Nat.le_refl _)]
    rfl
  have h3 : engineRun n (sent (.data 0) (frames ++ dataEvents 0 byte)) =
      .next (sent (.data n) (frames ++ dataEvents n byte)) :=
    engineRun_loop (fun k => sent (.data k) (frames ++ dataEvents k byte)) n fun k hk => by
      rw [hbody (.data k) _ trivial]
      show Host.Outcome.next (dataStep n byte k (sent (.data k) (frames ++ dataEvents k byte))) = _
      rw [dataStep, if_pos hk, dataEvents, dataEvents, List.range_succ]
      simp [sent, emit, atBus]
  have h4 : engineStep (sent (.data n) (frames ++ dataEvents n byte)) =
      .next (sent .refresh (frames ++ dataEvents n byte)) := by
    rw [hbody (.data n) _ trivial]
    show Host.Outcome.next (dataStep n byte n (sent (.data n) (frames ++ dataEvents n byte))) = _
    rw [dataStep, if_neg (Nat.lt_irrefl _)]
    rfl
  have h5 : engineStep (sent .refresh (frames ++ dataEvents n byte)) = .next
      { atBus s (.steps s.par.refreshSeq) (frames ++ dataEvents n byte) s.levels s.polls with pstate := .refreshing } := by
    rw [hbody .refresh _ trivial]
    rfl
  rw [List.take_zero, List.take_length] at h1
  rw [show frames ++ dataEvents 0 byte = frames from List.append_nil _] at h3
  exact ⟨(1 + frames.length + 1) + n + 1 + 1,
    engineRun_trans (engineRun_trans (engineRun_trans (engineRun_trans (engineRun_trans
      (by rw [engineRun_succ h0]; rfl) h1) (by rw [engineRun_succ h2]; rfl)) h3) (by rw [engineRun_succ h4]; rfl))
      (by rw [engineRun_succ h5]; rfl)⟩

/-- The last step completes the command (10_state.md R62). -/
theorem finish_run (hl : RunsLists i after r) {s : State} (hr : Runs i s) (hq : s.seq = .finish) :
    engineStep s = .next (complete (r s.op) s) := by
  rw [hr.step, hl s (by rw [hq]; trivial), listBody, hq]

/-- A timeout ends the command (R256, R318). -/
theorem timeout_run (hl : RunsLists i after r) {s : State} (hr : Runs i s) {todo : List PanelStep}
    (hq : s.seq = .polled todo) (h0 : s.op.timeout ≠ 0) (h1 : s.op.timeout ≤ s.polls) :
    engineStep s = .next (raise .busyTimeout s) := by
  rw [hr.step, hl s (by rw [hq]; trivial), listBody, hq]
  simp [polledStep, pollsExhausted, h0, h1]

end lists

end Sys2Proof.Machine
end

