-- ==== Sys2Proof/Laws/PerInstr.lean ====
section
/-! SUPPORT. The per-instruction family WordShape: the reserved bits of a command's word are 0, and its MODE
and CODE fields are 0 where the command has none (30_encoding.md R120, R124, R127, R128). -/

namespace Sys2Proof.Laws

/-- May a command's word have a MODE, or a CODE, other than 0? -/
def WordShape.hasMode : Instr → Bool
  | .quantizeNone | .quantizeFs | .quantizeHalftone | .quantizeOrdered | .quantizePopart => true
  | .matchRgb | .pack | .panelReset | .panelInit | .panelFull | .panelPartial | .panelBlank _ | .panelSleep => false

def WordShape.hasCode : Instr → Bool
  | .panelBlank _ => true
  | .matchRgb | .quantizeNone | .quantizeFs | .quantizeHalftone | .quantizeOrdered | .quantizePopart | .pack
  | .panelReset | .panelInit | .panelFull | .panelPartial | .panelSleep => false

/-- The shape of a command's word. -/
def WordShape.Statement (i : Instr) : Prop :=
  reservedClear (encode i) = true ∧ opcDefined (opcField (encode i)) = true ∧
    (WordShape.hasMode i = false → modeField (encode i) = 0) ∧ (WordShape.hasCode i = false → codeField (encode i) = 0)

theorem WordShape.matchRgb : WordShape.Statement .matchRgb := by unfold WordShape.Statement; decide
theorem WordShape.quantizeNone : WordShape.Statement .quantizeNone := by unfold WordShape.Statement; decide
theorem WordShape.quantizeFs : WordShape.Statement .quantizeFs := by unfold WordShape.Statement; decide
theorem WordShape.quantizeHalftone : WordShape.Statement .quantizeHalftone := by unfold WordShape.Statement; decide
theorem WordShape.quantizeOrdered : WordShape.Statement .quantizeOrdered := by unfold WordShape.Statement; decide
theorem WordShape.quantizePopart : WordShape.Statement .quantizePopart := by unfold WordShape.Statement; decide
theorem WordShape.pack : WordShape.Statement .pack := by unfold WordShape.Statement; decide
theorem WordShape.panelReset : WordShape.Statement .panelReset := by unfold WordShape.Statement; decide
theorem WordShape.panelInit : WordShape.Statement .panelInit := by unfold WordShape.Statement; decide
theorem WordShape.panelFull : WordShape.Statement .panelFull := by unfold WordShape.Statement; decide
theorem WordShape.panelPartial : WordShape.Statement .panelPartial := by unfold WordShape.Statement; decide
theorem WordShape.panelBlank (c : Code) : WordShape.Statement (.panelBlank c) := by
  unfold WordShape.Statement; revert c; decide
theorem WordShape.panelSleep : WordShape.Statement .panelSleep := by unfold WordShape.Statement; decide

end Sys2Proof.Laws
end

