-- ==== Sys2Proof/Laws/Quantize.lean ====
section
/-! SUPPORT. The steps of QUANTIZE's bodies: setting up, gathering cells and tiles, one pixel, the end. Each
is stated from the working values as Safety.lean's `WorkOk` has them, for the Image at accept. -/

namespace Sys2Proof.Machine

theorem isQuantize_iff (i : Instr) : isQuantize i = true ↔
    i = .quantizeNone ∨ i = .quantizeFs ∨ i = .quantizeHalftone ∨ i = .quantizeOrdered ∨ i = .quantizePopart := by
  cases i <;> simp [isQuantize]

/-- The Image of the running command as it was at accept. -/
abbrev acceptImage (s : State) : Nat → Nat → Chans Nat := pixelAt s.acceptMem s.op.src s.op.imgW

/-- The source is as it was at accept (20_memory.md R101, R362). -/
def SourceKept (s : State) : Prop := ImagesAgree s.op.imgW s.op.imgH (liveImage s) (acceptImage s)

theorem gridAddr_eq (o : Op) (k : Nat) : gridAddr o k = o.dst + k := by rw [gridAddr, rowMajor_eq]

/-- The accumulators after a pixel step: only mode FloydSteinberg changes them. -/
def fsAfter (i : Instr) (k : Nat) (s : State) : FsAcc :=
  match i with
  | .quantizeFs => fsBefore s.par.palette (acceptImage s) s.op.imgW (k + 1)
  | _ => s.fs

/-- A pixel step writes the pixel's code (41_dither.md R183). -/
theorem body_pixel {i : Instr} {s : State} {k : Nat} (hi : isQuantize i = true) (hq : s.seq = .pixel k)
    (hk : k < s.op.gridBytes) (hs : SourceKept s) (hw : WorkOk i s) :
    bodyOf i s = .next
      { putCode k (modeCode i s.par.palette (acceptImage s) s.op.imgW s.op.imgH k) s with fs := fsAfter i k s } := by
  have hk' : k < s.op.imgW * s.op.imgH := hk
  have hx := column_lt hk'
  have hy := row_lt hk'
  have hp := hs _ _ hx hy
  rcases (isQuantize_iff i).1 hi with rfl | rfl | rfl | rfl | rfl
  · simp only [bodyOf, bodyQuantizeNone, hq, paintStep, hk, if_true, noneCode, hp]
    rfl
  · simp only [bodyOf, bodyQuantizeFs, hq, fsPixelStep, hk, if_true, hp, hw k hq]
    rfl
  · simp only [bodyOf, bodyQuantizeHalftone, hq, paintStep, hk, if_true, halftoneWith, noneCode, hp, hw.2 k hq]
    rw [List.getD_eq_getElem?_getD, List.getElem?_map,
      List.getElem?_range (blockIndex_lt (by decide) hx hy)]
    rfl
  · simp only [bodyOf, bodyQuantizeOrdered, hq, paintStep, hk, if_true, orderedCode, hp]
    rfl
  · simp only [bodyOf, bodyQuantizePopart, hq, paintStep, hk, if_true, hw.2 k hq]
    rw [List.getD_eq_getElem?_getD, List.getElem?_map,
      List.getElem?_range (blockIndex_lt (by decide) hx hy)]
    rfl

/-- After the last pixel the command completes. -/
theorem body_pixel_end {i : Instr} {s : State} {k : Nat} (hi : isQuantize i = true) (hq : s.seq = .pixel k)
    (hk : ¬ k < s.op.gridBytes) : bodyOf i s = .next (finishQuantize s) := by
  rcases (isQuantize_iff i).1 hi with rfl | rfl | rfl | rfl | rfl <;>
    simp only [bodyOf, bodyQuantizeNone, bodyQuantizeFs, bodyQuantizeHalftone, bodyQuantizeOrdered,
      bodyQuantizePopart, hq, paintStep, fsPixelStep, hk, if_false]

/-- The luminance sum of one more cell. -/
theorem body_cell {s : State} {k : Nat} (hq : s.seq = .tally k) (hk : k < blockCount 4 s.op.imgW s.op.imgH)
    (hs : SourceKept s) (hw : WorkOk .quantizeHalftone s) :
    bodyOf .quantizeHalftone s = .next
      { s with
        cellSums := (List.range (k + 1)).map (cellSum (acceptImage s) s.op.imgW s.op.imgH)
        seq := .tally (k + 1) } := by
  simp only [bodyOf, bodyQuantizeHalftone, hq, cellStep, hk, if_true, cellSum_congr hs, (hw.1 k hq).2,
    List.range_succ, List.map_append, List.map_cons, List.map_nil]

/-- The votes of one more tile. -/
theorem body_tile {s : State} {k : Nat} (hq : s.seq = .tally k) (hk : k < blockCount 8 s.op.imgW s.op.imgH)
    (hs : SourceKept s) (hw : WorkOk .quantizePopart s) :
    bodyOf .quantizePopart s = .next
      { s with
        tileVotes := (List.range (k + 1)).map (votesOf s.par.palette (acceptImage s) s.op.imgW s.op.imgH)
        seq := .tally (k + 1) } := by
  simp only [bodyOf, bodyQuantizePopart, hq, tileStep, hk, if_true, votesOf_congr hs, (hw.1 k hq).2,
    List.range_succ, List.map_append, List.map_cons, List.map_nil]

/-- After the last cell or tile the pixels begin. -/
theorem body_tally_end {i : Instr} {s : State} {k n : Nat} (hi : i = .quantizeHalftone ∧ n = 4 ∨ i = .quantizePopart ∧ n = 8)
    (hq : s.seq = .tally k) (hk : ¬ k < blockCount n s.op.imgW s.op.imgH) :
    bodyOf i s = .next { s with seq := .pixel 0 } := by
  rcases hi with ⟨rfl, rfl⟩ | ⟨rfl, rfl⟩ <;>
    simp only [bodyOf, bodyQuantizeHalftone, bodyQuantizePopart, hq, cellStep, tileStep, hk, if_false]

/-- A source outside the destination is kept by any write into the destination. -/
theorem sourceKept_of_read {s : State}
    (h : ∀ a, s.op.src ≤ a → a < s.op.src + s.op.imageBytes → s.mem.read a = s.acceptMem.read a) : SourceKept s :=
  pixelAt_congr h

end Sys2Proof.Machine
end

