-- ==== Sys2Proof/Laws/Progress.lean ====
section
/-! SUPPORT. What one step of a running command can do, said once: it goes on at a position of its own,
or it ends, without error or with one. -/

namespace Sys2Proof.Machine

/-- The command goes on: no flag changes, PSTATE is the new position's, and at most one byte of the
destination range is written. -/
structure GoesOn (i : Instr) (s t : State) : Prop where
  busy : t.busy = s.busy
  flags : t.done = s.done ∧ t.err = s.err ∧ t.errClass = s.errClass ∧ t.errCode = s.errCode
  result : t.result = s.result
  latched : t.op = s.op ∧ t.par = s.par ∧ t.acceptPState = s.acceptPState ∧ t.acceptMem = s.acceptMem
  position : seqPState i s.acceptPState t.seq = some t.pstate
  memory : t.mem = s.mem ∨ ∃ j v, j < dstLen i s.op ∧ t.mem = s.mem.write (s.op.dst + j) v

/-- The command ends without error (10_state.md R62). -/
structure EndsDone (s t : State) : Prop where
  flags : t.busy = false ∧ t.done = true ∧ t.err = s.err ∧ t.errClass = s.errClass ∧ t.errCode = s.errCode
  seq : t.seq = .idle
  latched : t.op = s.op ∧ t.par = s.par ∧ t.acceptPState = s.acceptPState ∧ t.acceptMem = s.acceptMem
  pstate : t.pstate = s.pstate
  resting : Resting t.pstate
  memory : t.mem = s.mem

/-- A step of a running command. -/
def Progress (i : Instr) (s t : State) : Prop :=
  GoesOn i s t ∨ EndsDone s t ∨ ∃ e, e ≠ .noError ∧ t = raise e s

/-- The command goes on, writing nothing and issuing what it likes. -/
theorem goesOn_of {i : Instr} {s t : State}
    (h : t = { s with
      seq := t.seq, pstate := t.pstate, trace := t.trace, levels := t.levels, free := t.free, polls := t.polls
      rstOut := t.rstOut, fs := t.fs, cellSums := t.cellSums, tileVotes := t.tileVotes })
    (hp : seqPState i s.acceptPState t.seq = some t.pstate) : Progress i s t := by
  refine .inl ⟨?_, ?_, ?_, ?_, hp, .inl ?_⟩ <;> rw [h] <;> exact ⟨rfl, rfl, rfl, rfl⟩

theorem endsDone_complete {i : Instr} {s : State} (r : Option Nat) (h : Resting s.pstate) :
    Progress i s (complete r s) :=
  .inr (.inl ⟨⟨rfl, rfl, rfl, rfl, rfl⟩, rfl, ⟨rfl, rfl, rfl, rfl⟩, rfl, h, rfl⟩)

theorem fails_raise {i : Instr} {s : State} {e : ErrCode} (h : e ≠ .noError) : Progress i s (raise e s) :=
  .inr (.inr ⟨e, h, rfl⟩)

/-! The shared positions. -/

section lists
variable {i : Instr} {s : State} {p during after : PState}

/-- A step-list position of a command whose PSTATE is `during` while the list runs and `after` at its end. -/
theorem progress_listBody (r : Option Nat)
    (hp : ∀ q, IsListPosition q → seqPState i s.acceptPState q = listPState during after q)
    (hq : IsListPosition s.seq) (hs : seqPState i s.acceptPState s.seq = some s.pstate) (hr : Resting after) :
    ∃ t, listBody after r s = .next t ∧ Progress i s t := by
  rw [hp _ hq] at hs
  unfold listBody
  split
  · next todo he =>
    rw [he] at hs
    refine ⟨_, rfl, ?_⟩
    cases todo with
    | nil => exact goesOn_of rfl (hp .finish trivial)
    | cons x rest =>
      have hx : ∀ q, IsListPosition q → listPState during after q = some during → 
          seqPState i s.acceptPState q = some s.pstate := fun q h1 h2 => by rw [hp q h1, h2]; exact hs
      cases x with
      | cmd b => exact goesOn_of rfl (hx (.steps rest) trivial rfl)
      | data b => exact goesOn_of rfl (hx (.steps rest) trivial rfl)
      | waitBusy => exact goesOn_of rfl (hx (.poll rest) trivial rfl)
  · next todo he =>
    rw [he] at hs
    refine ⟨_, rfl, ?_⟩
    unfold pollStep
    split
    · refine goesOn_of (by unfold readBusyLine; split <;> rfl) ?_
      exact (hp (.polled todo) trivial).trans (by rw [readBusyLine_pstate]; exact hs)
    · refine goesOn_of (by unfold readBusyLine; split <;> rfl) ?_
      exact (hp (.steps todo) trivial).trans (by rw [readBusyLine_pstate]; exact hs)
  · next todo he =>
    rw [he] at hs
    refine ⟨_, rfl, ?_⟩
    unfold polledStep
    split
    · exact fails_raise nofun
    · exact goesOn_of rfl ((hp (.poll todo) trivial).trans hs)
  · next he =>
    rw [he] at hs
    refine ⟨_, rfl, endsDone_complete _ ?_⟩
    injection hs with hs
    rw [← hs]
    exact hr
  · next h1 h2 h3 h4 =>
    exfalso
    revert hq
    rcases he : s.seq <;> simp_all [IsListPosition]

/-- A position of a transfer after its validation. -/
theorem progress_transferBody (frames : List BusEvent) (n : Nat) (byte : Nat → Byte)
    (hp : ∀ q, IsTransferPosition q ∨ IsListPosition q → seqPState i s.acceptPState q = transferPState q)
    (hq : IsTransferPosition s.seq ∨ IsListPosition s.seq)
    (hs : seqPState i s.acceptPState s.seq = some s.pstate) :
    ∃ t, transferBody frames n byte s = .next t ∧ Progress i s t := by
  have hs' := hs
  rw [hp _ hq] at hs'
  unfold transferBody
  split
  · exact ⟨_, rfl, goesOn_of rfl (hp (.header 0) (.inl trivial))⟩
  · next k he =>
    rw [he] at hs'
    refine ⟨_, rfl, ?_⟩
    unfold headerStep
    split
    · exact goesOn_of rfl ((hp (.header (k + 1)) (.inl trivial)).trans hs')
    · exact goesOn_of rfl ((hp (.data 0) (.inl trivial)).trans hs')
  · next k he =>
    rw [he] at hs'
    refine ⟨_, rfl, ?_⟩
    unfold dataStep
    split
    · exact goesOn_of rfl ((hp (.data (k + 1)) (.inl trivial)).trans hs')
    · exact goesOn_of rfl ((hp .refresh (.inl trivial)).trans hs')
  · exact ⟨_, rfl, goesOn_of rfl (hp (.steps s.par.refreshSeq) (.inr trivial))⟩
  · next h1 h2 h3 h4 =>
    have hl : IsListPosition s.seq := hq.resolve_left fun h => by
      revert h
      rcases he : s.seq <;> simp_all [IsTransferPosition]
    refine progress_listBody (during := .refreshing) (some n) (fun q h => ?_) hl hs ⟨nofun, nofun⟩
    rw [hp q (.inr h)]
    cases q <;> first | rfl | exact absurd h id

end lists

/-- A QUANTIZE position at pixel `k`. -/
theorem progress_paint {i : Instr} {s : State} {k : Nat} (hd : dstLen i s.op = s.op.gridBytes) (hq : s.seq = .pixel k)
    (hp : ∀ k, seqPState i s.acceptPState (.pixel k) = some s.acceptPState)
    (hs : seqPState i s.acceptPState s.seq = some s.pstate) (hr : Resting s.acceptPState) (c : Code) (acc : FsAcc) :
    Progress i s (if k < s.op.gridBytes then { putCode k c s with fs := acc } else finishQuantize s) := by
  rw [hq, hp] at hs
  injection hs with hs
  split
  · next hk =>
    refine .inl ⟨rfl, ⟨rfl, rfl, rfl, rfl⟩, rfl, ⟨rfl, rfl, rfl, rfl⟩, (hp (k + 1)).trans (congrArg some hs), .inr
      ⟨k, codeByte c, by rw [hd]; exact hk, ?_⟩⟩
    show s.mem.write (gridAddr s.op k) (codeByte c) = _
    rw [gridAddr_eq]
  · exact endsDone_complete _ (hs ▸ hr)

theorem progress_paintStep {i : Instr} {s : State} {k : Nat} (hd : dstLen i s.op = s.op.gridBytes)
    (hq : s.seq = .pixel k) (hp : ∀ k, seqPState i s.acceptPState (.pixel k) = some s.acceptPState)
    (hs : seqPState i s.acceptPState s.seq = some s.pstate) (hr : Resting s.acceptPState) (c : Code) :
    Progress i s (paintStep k c s) := progress_paint hd hq hp hs hr c s.fs

/-- A running command's step always answers a next state, and is progress. -/
theorem body_progress {i : Instr} {s : State} (h : RunOk i s) : ∃ t, bodyOf i s = .next t ∧ Progress i s t := by
  obtain ⟨-, -, -, hst, hr, hs⟩ := h
  cases i with
  | matchRgb => cases hs
  | quantizeNone =>
    simp only [bodyOf, bodyQuantizeNone]
    split
    · next k he => exact ⟨_, rfl, progress_paintStep rfl he (fun _ => rfl) hs hr _⟩
    · next he => exact absurd hs (by rcases hq : s.seq <;> simp_all [seqPState])
  | quantizeOrdered =>
    simp only [bodyOf, bodyQuantizeOrdered]
    split
    · next k he => exact ⟨_, rfl, progress_paintStep rfl he (fun _ => rfl) hs hr _⟩
    · next he => exact absurd hs (by rcases hq : s.seq <;> simp_all [seqPState])
  | quantizeFs =>
    simp only [bodyOf, bodyQuantizeFs]
    split
    · next he => rw [he] at hs; exact ⟨_, rfl, goesOn_of rfl hs⟩
    · next k he =>
      refine ⟨_, rfl, ?_⟩
      unfold fsPixelStep
      exact progress_paint rfl he (fun _ => rfl) hs hr _ _
    · next he => exact absurd hs (by rcases hq : s.seq <;> simp_all [seqPState])
  | quantizeHalftone =>
    simp only [bodyOf, bodyQuantizeHalftone]
    split
    · next he => rw [he] at hs; exact ⟨_, rfl, goesOn_of rfl hs⟩
    · next k he =>
      rw [he] at hs
      refine ⟨_, rfl, ?_⟩
      unfold cellStep
      split <;> exact goesOn_of rfl hs
    · next k he => exact ⟨_, rfl, progress_paintStep rfl he (fun _ => rfl) hs hr _⟩
    · next he => exact absurd hs (by rcases hq : s.seq <;> simp_all [seqPState])
  | quantizePopart =>
    simp only [bodyOf, bodyQuantizePopart]
    split
    · next he => rw [he] at hs; exact ⟨_, rfl, goesOn_of rfl hs⟩
    · next k he =>
      rw [he] at hs
      refine ⟨_, rfl, ?_⟩
      unfold tileStep
      split <;> exact goesOn_of rfl hs
    · next k he => exact ⟨_, rfl, progress_paintStep rfl he (fun _ => rfl) hs hr _⟩
    · next he => exact absurd hs (by rcases hq : s.seq <;> simp_all [seqPState])
  | pack =>
    simp only [bodyOf, bodyPack]
    split
    · next k he =>
      rw [he] at hs
      refine ⟨_, rfl, ?_⟩
      unfold packCheckStep
      split
      · split
        · exact goesOn_of rfl hs
        · exact fails_raise nofun
      · exact goesOn_of rfl hs
    · next k he =>
      rw [he] at hs
      refine ⟨_, rfl, ?_⟩
      unfold packByteStep
      split
      · next hk =>
        refine .inl ⟨rfl, ⟨rfl, rfl, rfl, rfl⟩, rfl, ⟨rfl, rfl, rfl, rfl⟩, hs, .inr ⟨k,
          packedByte (gridAt s.mem s.op.src s.op.imgW) s.op.imgW (k / s.op.stride) (k % s.op.stride), hk, ?_⟩⟩
        show s.mem.write _ _ = _
        rw [rowMajor_eq]
      · injection hs with hs
        exact endsDone_complete _ (hs ▸ hr)
    · next he => exact absurd hs (by rcases hq : s.seq <;> simp_all [seqPState])
  | panelReset =>
    simp only [bodyOf, bodyPanelReset]
    split
    · next k he =>
      refine ⟨_, rfl, ?_⟩
      have hk : k ≠ 0 → s.pstate = .resetting := fun h0 => by
        rw [he] at hs
        cases k with
        | zero => exact absurd rfl h0
        | succ k => injection hs with hs; exact hs.symm
      have go : ∀ k, seqPState .panelReset s.acceptPState (.resetLine (k + 1)) = some .resetting := fun _ => rfl
      unfold resetLineStep
      split
      · exact goesOn_of rfl rfl
      all_goals first
        | exact goesOn_of rfl ((go _).trans (congrArg some (hk nofun).symm))
        | skip
      next h0 _ _ _ _ _ _ =>
      exact endsDone_complete _ (by rw [hk h0]; exact ⟨nofun, nofun⟩)
    · next he => exact absurd hs (by rcases hq : s.seq <;> simp_all [seqPState])
  | panelInit =>
    refine progress_listBody none (fun q _ => rfl) ?_ hs ⟨nofun, nofun⟩
    rcases hq : s.seq <;> simp_all [seqPState, listPState, IsListPosition]
  | panelSleep =>
    refine progress_listBody none (fun q _ => rfl) ?_ hs ⟨nofun, nofun⟩
    rcases hq : s.seq <;> simp_all [seqPState, listPState, IsListPosition]
  | panelBlank c =>
    refine progress_transferBody _ _ _ (fun q _ => rfl) ?_ hs
    rcases hq : s.seq <;> simp_all [seqPState, transferPState, listPState, IsListPosition, IsTransferPosition]
  | panelFull =>
    simp only [bodyOf, bodyPanelFull]
    split
    · next k he =>
      rw [he] at hs
      refine ⟨_, rfl, ?_⟩
      unfold bufferCheckStep
      split
      · split
        · exact goesOn_of rfl hs
        · exact fails_raise nofun
      · exact goesOn_of rfl hs
    · next he =>
      refine progress_transferBody _ _ _ (fun q hq => ?_) ?_ hs
      · cases q <;> first | rfl | (simp [IsListPosition, IsTransferPosition] at hq)
      · rcases hq : s.seq <;>
          simp_all [seqPState, transferPState, listPState, IsListPosition, IsTransferPosition]
  | panelPartial =>
    simp only [bodyOf, bodyPanelPartial]
    split
    · next k he =>
      rw [he] at hs
      refine ⟨_, rfl, ?_⟩
      unfold bufferCheckStep
      split
      · split
        · exact goesOn_of rfl hs
        · exact fails_raise nofun
      · exact goesOn_of rfl hs
    · next he =>
      refine progress_transferBody _ _ _ (fun q hq => ?_) ?_ hs
      · cases q <;> first | rfl | (simp [IsListPosition, IsTransferPosition] at hq)
      · rcases hq : s.seq <;>
          simp_all [seqPState, transferPState, listPState, IsListPosition, IsTransferPosition]

/-- A command that has passed its checks runs in good order (20_memory.md R95, R96, 43_panel.md R259). -/
theorem runOk_launch {i : Instr} {s : State} (hi : i ≠ .matchRgb) (hr : Resting s.pstate)
    (hf : firstFailing (checksOf i (latched i s)) = none) :
    RunOk i (launch (startPosition i s.par) (latched i s)) := by
  have h := firstFailing_eq_none.1 hf
  have hstart : ∀ p, startPState i = some p → s.pstate = p := fun p hp => by
    cases i <;> simp only [startPState, reduceCtorEq, Option.some.injEq] at hp <;> subst hp <;>
      exact stateCheck_passes.1 (h _ (List.mem_cons_self ..))
  refine ⟨decode_encode i, ?_, ?_, hstart, hr, ?_⟩
  · show rangesFit i (latched i s).op (latched i s).par.memSize = true
    cases i <;> first
      | exact absurd rfl hi
      | rfl
      | exact rangeCheck_passes.1 (h _ (by simp [checksOf, quantizeChecks, packChecks, fullChecks, partialChecks]))
  · show rangesOverlap i (latched i s).op = false
    cases i <;> first
      | exact absurd rfl hi
      | (simp [rangesOverlap, srcLen, dstLen]; done)
      | exact overlapCheck_passes.1 (h _ (by simp [checksOf, quantizeChecks, packChecks]))
  · cases i <;> first
      | exact absurd rfl hi
      | rfl
      | exact congrArg some (hstart _ rfl).symm

end Sys2Proof.Machine
end

