-- ==== Sys2Proof/Tests/Slice0.lean ====
section
/-! SUPPORT. Tests: refusals of WellFormed, words written out from the encoding, one small run for each command
with the values of 95_test_vectors.md, and for each obligation with hypotheses a state that meets them. -/

namespace Sys2Proof.Tests

open Sys2Proof Sys2Proof.Machine

/-! A small engine: a 4 × 2 panel, 0x1000 bytes of data memory, and the values the OPEN parameters need. -/

def benchParams : Params where
  panelW := 4
  panelH := 2
  regBase := 0x40000000
  memSize := 0x1000
  palette := defaultPalette
  initSeq := [.cmd 0x01, .data 0x07, .waitBusy]
  refreshSeq := defaultRefreshSeq
  sleepSeq := defaultSleepSeq
  cmdDataStart := 0x10
  cmdPtlWindow := 0x90
  busyActive := false
  tRstH1 := 20
  tRstL := 2
  tRstH2 := 20
  pollInterval := 10

/-- That engine at rest in a panel state. -/
def bench (p : PState) : State := { State.reset with par := benchParams, pstate := p, busyTimeout := 2 }

/-- The next state of an outcome, or else `s`. -/
def nextOf (s : State) : Host.Outcome State Fault Refusal → State
  | .next t => t
  | .fault _ => s
  | .refused _ => s

/-- The state after the accept of a command. -/
def accepted (i : Instr) (s : State) : State := nextOf s (exec i s)

/-- The state after the accept and `n` engine steps. -/
def ran (n : Nat) (i : Instr) (s : State) : State := nextOf s (engineRun n (accepted i s))

def putBytes (a : Nat) (bs : List Byte) (s : State) : State :=
  { s with mem := (bs.zipIdx).foldl (fun m b => m.write (a + b.2) b.1) s.mem }

def getBytes (a n : Nat) (s : State) : List Byte := (List.range n).map fun k => s.mem.read (a + k)

/-- IMG_DIM, SRC_ADDR and DST_ADDR. -/
def imageAt (w h src dst : Nat) (s : State) : State :=
  { s with
    imgDim := BitVec.ofNat 32 (h * 2 ^ 16 + w)
    srcAddr := BitVec.ofNat 32 src
    dstAddr := BitVec.ofNat 32 dst }

/-- WIN_XY and WIN_WH. -/
def windowAt (x y w h : Nat) (s : State) : State :=
  { s with winXY := BitVec.ofNat 32 (y * 2 ^ 16 + x), winWH := BitVec.ofNat 32 (h * 2 ^ 16 + w) }

/-- Image C of 95_test_vectors.md section 3 at 0, its grid at 0x40. -/
def imageC : State :=
  putBytes 0
    [0xC8, 0x1E, 0x28, 0xFF, 0x80, 0x00, 0x1E, 0x3C, 0xC8, 0x64, 0xC8, 0x32, 0x80, 0x00, 0x80, 0xFA, 0xFA, 0xFA]
    (imageAt 3 2 0 0x40 (bench .uninitialized))

/-- Grid K-1 of section 4 at 0x40, its FrameBuffer at 0x80. -/
def gridK1 : State := putBytes 0x40 [1, 2, 3, 5, 6, 0] (imageAt 3 2 0x40 0x80 (bench .uninitialized))

/-- A buffer for the whole 4 × 2 panel at 0x100, the line busy once at each wait. -/
def fullBench : State :=
  putBytes 0x100 [0x11, 0x22, 0x33, 0x55]
    { bench .initialized with
      srcAddr := 0x100, bufLen := 4, levels := [false, true, false, true, false, true] }

/-- The same buffer as that of the window 2 × 2 at (1, 0), of two bytes. -/
def partialBench : State := windowAt 1 0 2 2 { fullBench with bufLen := 2 }

/-- A blank area of 3 columns and 2 rows. -/
def blankBench : State := windowAt 0 0 3 2 { bench .initialized with levels := [false, true, true, true] }

/-! WellFormed refuses an ill-formed term for each of its checks. -/

theorem test_bench_params : benchParams.WellFormed = true := by decide
theorem test_params_no_columns : { benchParams with panelW := 0 }.WellFormed = false := by decide
theorem test_params_many_columns : { benchParams with panelW := 65536 }.WellFormed = false := by decide
theorem test_params_no_rows : { benchParams with panelH := 0 }.WellFormed = false := by decide
theorem test_params_many_rows : { benchParams with panelH := 65536 }.WellFormed = false := by decide
theorem test_params_odd_base : { benchParams with regBase := 2 }.WellFormed = false := by decide
theorem test_params_no_memory : { benchParams with memSize := 0 }.WellFormed = false := by decide
theorem test_params_large_memory : { benchParams with memSize := 2 ^ 32 + 1 }.WellFormed = false := by decide
theorem test_params_refresh_no_cmd : { benchParams with refreshSeq := [.data 1, .waitBusy] }.WellFormed = false := by
  decide
theorem test_params_refresh_no_wait : { benchParams with refreshSeq := [.waitBusy, .cmd 1] }.WellFormed = false := by
  decide
theorem test_blank_codes : ∀ c : Code, Instr.assembles (.panelBlank c) = true ↔ c ≠ 4 ∧ c ≠ 7 := by decide
theorem test_line_refused : lineOk (.run (.panelBlank 4)) = false := by decide

/-! Decoding: each command's word, bit by bit from the fields of 30_encoding.md R120 to R128, in the order
bits 31:11, CODE 10:8, bit 7, MODE 6:4, OPC 3:0. -/

theorem test_decode_match : decode (0#21 ++ 0b000#3 ++ 0#1 ++ 0b000#3 ++ 0b0001#4) = .ok .matchRgb := by decide
theorem test_decode_none : decode (0#21 ++ 0b000#3 ++ 0#1 ++ 0b000#3 ++ 0b0010#4) = .ok .quantizeNone := by decide
theorem test_decode_fs : decode (0#21 ++ 0b000#3 ++ 0#1 ++ 0b001#3 ++ 0b0010#4) = .ok .quantizeFs := by decide
theorem test_decode_halftone : decode (0#21 ++ 0b000#3 ++ 0#1 ++ 0b010#3 ++ 0b0010#4) = .ok .quantizeHalftone := by
  decide
theorem test_decode_ordered : decode (0#21 ++ 0b000#3 ++ 0#1 ++ 0b011#3 ++ 0b0010#4) = .ok .quantizeOrdered := by
  decide
theorem test_decode_popart : decode (0#21 ++ 0b000#3 ++ 0#1 ++ 0b100#3 ++ 0b0010#4) = .ok .quantizePopart := by decide
theorem test_decode_pack : decode (0#21 ++ 0b000#3 ++ 0#1 ++ 0b000#3 ++ 0b0011#4) = .ok .pack := by decide
theorem test_decode_reset : decode (0#21 ++ 0b000#3 ++ 0#1 ++ 0b000#3 ++ 0b0100#4) = .ok .panelReset := by decide
theorem test_decode_init : decode (0#21 ++ 0b000#3 ++ 0#1 ++ 0b000#3 ++ 0b0101#4) = .ok .panelInit := by decide
theorem test_decode_full : decode (0#21 ++ 0b000#3 ++ 0#1 ++ 0b000#3 ++ 0b0110#4) = .ok .panelFull := by decide
theorem test_decode_partial : decode (0#21 ++ 0b000#3 ++ 0#1 ++ 0b000#3 ++ 0b0111#4) = .ok .panelPartial := by decide
theorem test_decode_blank :
    ∀ c : Code, decode (0#21 ++ c ++ 0#1 ++ 0b000#3 ++ 0b1000#4) = .ok (.panelBlank c) := by decide
theorem test_decode_sleep : decode (0#21 ++ 0b000#3 ++ 0#1 ++ 0b000#3 ++ 0b1001#4) = .ok .panelSleep := by decide

/-- The illegal words of vectors E-1 to E-7. -/
theorem test_decode_illegal :
    [0x00000000#32, 0x0000000A#32, 0x00000081#32, 0x00000013#32, 0x00000112#32].map decode =
      List.replicate 5 (.error .badCommand) ∧
    [0x00000052#32, 0x00000072#32].map decode = List.replicate 2 (.error .badMode) := by decide

theorem test_table_word : decodeTableWord 32 0x00000608 = some (.panelBlank 6) := by decide

/-! Text of lines (30_encoding.md R130, R134). -/

theorem test_line_set : readLine "set DST_ADDR, 0x200 ; the grid" = some (some (.set .dstAddr 0x200)) := by decide
theorem test_line_convert :
    readLine "convert.fs 0x000, 0x040, 0x080, 3, 2" = some (some (.convert .fs 0 0x40 0x80 3 2)) := by decide
theorem test_line_blank : readLine "run panel.blank white" = some (some (.run (.panelBlank 1))) := by decide

/-! A word placed by withFetchWord is run by the very next step after reset. -/

theorem test_first_step :
    ∀ w ∈ [0x01, 0x02, 0x12, 0x22, 0x32, 0x42, 0x03, 0x04, 0x05, 0x06, 0x07, 0x608, 0x09],
      (nextOf State.reset (step (State.reset.withFetchWord 32 w))).op.word = BitVec.ofNat 32 w := by decide

/-! One small run for each command: the values are those of 95_test_vectors.md, by the vector's name, or follow
from the rule named. -/

/-- M-5 and M-12 to M-14: ties and near ties. -/
theorem test_match :
    [0x800080#24, 0x0080FF#24, 0xFF8000#24, 0x000080#24].map
      (fun v => (accepted .matchRgb { bench .sleeping with matchRgb := v }).result) = [3, 2, 5, 3] := by decide

/-- E-16: MATCH has no panel-state check, and STATUS is DONE alone with PSTATE kept. -/
theorem test_match_status : statusWord (accepted .matchRgb (bench .sleeping)) = 0x00000502 := by decide

/-- N-2. -/
theorem test_quantize_none :
    getBytes 0x40 6 (ran 7 .quantizeNone imageC) = [3, 2, 5, 6, 3, 1] ∧
    (ran 7 .quantizeNone imageC).result = 6 ∧ statusWord (ran 7 .quantizeNone imageC) = 0x00000002 := by decide

/-- F-7: both clamps are met. -/
theorem test_quantize_fs : getBytes 0x40 6 (ran 8 .quantizeFs imageC) = [3, 2, 5, 6, 5, 1] := by decide

/-- H-7: one cell of 6 pixels, dot size 8. -/
theorem test_quantize_halftone : getBytes 0x40 6 (ran 10 .quantizeHalftone imageC) = [3, 0, 0, 0, 0, 0] := by decide

/-- O-6. -/
theorem test_quantize_ordered : getBytes 0x40 6 (ran 7 .quantizeOrdered imageC) = [0, 2, 0, 2, 0, 1] := by decide

set_option maxRecDepth 4000 in
/-- P-4. -/
theorem test_quantize_popart : getBytes 0x40 6 (ran 10 .quantizePopart imageC) = List.replicate 6 3 := by decide

/-- K-1. -/
theorem test_pack :
    getBytes 0x80 5 (ran 12 .pack gridK1) = [0x12, 0x30, 0x56, 0x00, 0x00] ∧ (ran 12 .pack gridK1).result = 4 := by
  decide

/-- K-3: nothing is written. -/
theorem test_pack_bad_index :
    statusWord (ran 12 .pack (putBytes 0x40 [1, 4] gridK1)) = 0x0004000C ∧
    getBytes 0x80 4 (ran 12 .pack (putBytes 0x40 [1, 4] gridK1)) = [0, 0, 0, 0] := by decide

/-- P-R2. -/
theorem test_panel_reset :
    busTrace (ran 8 .panelReset (bench .sleeping)) =
      [.rst true, .delay .rstH1, .rst false, .delay .rstL, .rst true, .delay .rstH2] ∧
    statusWord (ran 8 .panelReset (bench .sleeping)) = 0x00000102 := by decide

/-- P-I1, with a wait that reads busy once. -/
theorem test_panel_init :
    busTrace (ran 9 .panelInit { bench .resetting with levels := [false, true] }) =
      [.cmd 1, .data 7, .poll false, .delay .pollInterval, .poll true] ∧
    statusWord (ran 9 .panelInit { bench .resetting with levels := [false, true] }) = 0x00000202 := by decide

/-- P-F1 on the small panel. -/
theorem test_panel_full :
    (busTrace (ran 40 .panelFull fullBench)).take 6 =
      [.cmd 0x10, .data 0x11, .data 0x22, .data 0x33, .data 0x55, .cmd 0x04] ∧
    (ran 40 .panelFull fullBench).result = 4 ∧ statusWord (ran 40 .panelFull fullBench) = 0x00000202 := by decide

/-- P-F3. -/
theorem test_panel_full_bad_index :
    statusWord (ran 9 .panelFull (putBytes 0x103 [0x47] fullBench)) = 0x0004020C ∧
    (ran 9 .panelFull (putBytes 0x103 [0x47] fullBench)).trace = [] := by decide

/-- The window frame of rule R284: columns 1 to 2, rows 0 to 1. -/
theorem test_panel_partial :
    (busTrace (ran 40 .panelPartial partialBench)).take 12 =
      [.cmd 0x90, .data 0, .data 1, .data 0, .data 2, .data 0, .data 0, .data 0, .data 1,
        .cmd 0x10, .data 0x11, .data 0x22] := by decide

/-- P-P1 and P-P2: the window frames' bytes. -/
theorem test_window_frames :
    windowFrame benchParams (liveOp (windowAt 16 8 4 2 (bench .initialized))) =
      .cmd 0x90 :: [0x00, 0x10, 0x00, 0x13, 0x00, 0x08, 0x00, 0x09].map .data ∧
    windowFrame benchParams (liveOp (windowAt 796 0 4 1 (bench .initialized))) =
      .cmd 0x90 :: [0x03, 0x1C, 0x03, 0x1F, 0x00, 0x00, 0x00, 0x00].map .data := by decide

/-- P-B2, with two rows: the fill nibble, not the padding one, ends a row. -/
theorem test_panel_blank :
    (busTrace (ran 40 (.panelBlank 3) blankBench)).take 6 =
      [.cmd 0x10, .data 0x33, .data 0x33, .data 0x33, .data 0x33, .cmd 0x04] ∧
    (ran 40 (.panelBlank 3) blankBench).result = 4 := by decide

/-- P-T1. -/
theorem test_timeout :
    busTrace (ran 20 (.panelBlank 0) (windowAt 0 0 2 1 { bench .initialized with levels := [false, false] })) =
      [.cmd 0x10, .data 0x00, .cmd 0x04, .poll false, .delay .pollInterval, .poll false] ∧
    statusWord (ran 20 (.panelBlank 0) (windowAt 0 0 2 1 { bench .initialized with levels := [false, false] })) =
      0x0020021C := by decide

/-- P-S1. -/
theorem test_panel_sleep :
    busTrace (ran 4 .panelSleep (bench .initialized)) = [.cmd 0x07, .data 0xA5] ∧
    statusWord (ran 4 .panelSleep (bench .initialized)) = 0x00000502 := by decide

/-- E-8, E-10, E-11, E-13 and E-14: which accept-time check comes first. -/
theorem test_accept_order :
    [(Instr.quantizeNone, imageAt 0 1 0xFFFFFFFF 0), (.quantizeNone, imageAt 1 1 0xFFE 0),
      (.quantizeNone, imageAt 2 2 0x100 0x10B), (.quantizeNone, imageAt 2 2 0xFFC 0xFFE),
      (.pack, imageAt 3 2 0 0xFFD)].map (fun v => statusWord (accepted v.1 (v.2 (bench .uninitialized)))) =
      [0x0003000C, 0x0005000C, 0x0006000C, 0x0005000C, 0x0005000C] := by decide

/-- E-9 and E-12: the ranges just fit. -/
theorem test_accept_edges :
    [(Instr.quantizeNone, imageAt 1 1 0xFFD 0), (.quantizeNone, imageAt 2 2 0x100 0x10C)].map
      (fun v => statusWord (ran 5 v.1 (v.2 (bench .uninitialized)))) = [0x00000002, 0x00000002] := by decide

/-- L1-2 and P-I2, P-B3, P-B5: the panel commands' first failing check. -/
theorem test_panel_order :
    statusWord (accepted .panelFull (bench .uninitialized)) = 0x00100014 ∧
    statusWord (accepted .panelInit (bench .initialized)) = 0x00100214 ∧
    statusWord (accepted (.panelBlank 4) (bench .initialized)) = 0x0004020C ∧
    statusWord (accepted (.panelBlank 1) (windowAt 0 0 4 2 (bench .resetting))) = 0x00100114 := by decide

/-- P-P3, P-P5 and P-P6 on the small panel: the window before the length. -/
theorem test_partial_order :
    statusWord (accepted .panelPartial (windowAt 1 0 4 1 fullBench)) = 0x00110214 ∧
    statusWord (accepted .panelPartial (windowAt 0 0 3 2 { fullBench with bufLen := 3 })) = 0x00120214 ∧
    statusWord (accepted .panelPartial (windowAt 1 0 4 1 { fullBench with bufLen := 3 })) = 0x00110214 := by decide

/-- RG-1 and RG-3. -/
theorem test_registers :
    regRead State.reset 0x2C = 0x01E00320 ∧ regRead State.reset 0x30 = 0x44504531 ∧
    statusWord (nextOf (bench .uninitialized)
      (regWrite 0x04 0xFFFFFFFF { bench .uninitialized with done := true, dropped := true })) = 0x00000002 := by
  decide

/-- RG-4: a word written while a QUANTIZE runs is dropped, and the run goes on. -/
theorem test_dropped :
    statusWord (nextOf imageC (engineRun 7 (nextOf imageC (regWrite 0x00 1 (accepted .quantizeNone imageC))))) =
      0x00000802 := by decide

/-! Witnesses: for each obligation with hypotheses, one or more states and operands that meet them together,
at the edges of the clauses where there are several. -/

/-- A QUANTIZE of image C that has just been accepted. -/
def started : State := accepted .quantizeNone imageC

/-- The same with all six grid bytes written, before its completion. -/
def painted : State := nextOf imageC (engineRun 6 started)

/-- A PACK whose second grid byte is no palette code, at that byte. -/
def badPack : State := nextOf imageC (engineRun 1 (accepted .pack (putBytes 0x40 [1, 4] gridK1)))

/-- A PANEL_DRAW_BLANK in its first busy-wait, with four busy readings to come and no bound. -/
def waiting : State :=
  nextOf imageC (engineRun 8 (accepted (.panelBlank 0)
    (windowAt 0 0 2 1
      { bench .initialized with busyTimeout := 0, levels := [false, false, false, false] })))

theorem inv_bench : Inv (bench .initialized) :=
  ⟨by decide, by decide, by decide, by decide, by decide, by decide, by decide,
    fun _ => ⟨rfl, by decide, by decide⟩, fun h => absurd h (by decide)⟩

theorem inv_started : Inv started :=
  ⟨by decide, by decide, by decide, by decide, by decide, by decide, by decide,
    fun h => absurd h (by decide), fun _ => ⟨.quantizeNone, by decide, by decide, by decide, by decide, ⟨by decide, by decide⟩, by decide⟩⟩

theorem inv_painted : Inv painted :=
  ⟨by decide, by decide, by decide, by decide, by decide, by decide, by decide,
    fun h => absurd h (by decide), fun _ => ⟨.quantizeNone, by decide, by decide, by decide, by decide, ⟨by decide, by decide⟩, by decide⟩⟩

theorem inv_badPack : Inv badPack :=
  ⟨by decide, by decide, by decide, by decide, by decide, by decide, by decide,
    fun h => absurd h (by decide), fun _ => ⟨.pack, by decide, by decide, by decide, by decide, ⟨by decide, by decide⟩, by decide⟩⟩

theorem inv_waiting : Inv waiting :=
  ⟨by decide, by decide, by decide, by decide, by decide, by decide, by decide,
    fun h => absurd h (by decide), fun _ => ⟨.panelBlank 0, by decide, by decide, by decide, by
      intro p h; cases h; decide, ⟨by decide, by decide⟩, by decide⟩⟩

theorem quantizeOk_imageC : QuantizeOk imageC :=
  ⟨by decide, by decide, by decide, by decide, by decide⟩

theorem packOk_gridK1 : PackOk gridK1 := ⟨by decide, by decide, by decide, by decide, by decide⟩

theorem fullOk_fullBench : FullOk fullBench := ⟨by decide, by decide, by decide⟩

theorem windowOk_partialBench : WindowOk partialBench := ⟨by decide, by decide, by decide, by decide⟩

theorem partialOk_partialBench : PartialOk partialBench :=
  ⟨by decide, windowOk_partialBench, by decide, by decide⟩

theorem blankOk_blankBench : BlankOk 3 blankBench := ⟨by decide, by decide, ⟨by decide, by decide⟩⟩

theorem witness_DecodeAndEncodeAgree :
    (Instr.panelBlank 5).WellFormed = true ∧ decode (encode (.panelBlank 5)) = .ok (.panelBlank 5) := by decide

theorem witness_IllegalWordsAreNamedByTheDecodeRule :
    decode 0x00000042 = .ok .quantizePopart ∧ decode 0x00000052 = .error .badMode ∧
    decode 0x00000072 = .error .badMode ∧ decode 0x00000092 = .error .badCommand ∧
    decode 0x00000009 = .ok .panelSleep ∧ decode 0x0000000A = .error .badCommand ∧
    decode 0x00000018 = .error .badCommand ∧ decode 0x00000708 = .ok (.panelBlank 7) ∧
    decode 0x00000808 = .error .badCommand := by decide

/-- The three clauses at their edges: the top reserved bit, the first illegal mode, the last legal one. -/
theorem witness_IllegalWordEndsInInputError :
    (bench .initialized).busy = false ∧ (0x80000001#32).extractLsb' 11 21 ≠ 0#21 ∧
    ((0x00000052#32).extractLsb' 7 1 = 0#1 ∧ (0x00000052#32).extractLsb' 11 21 = 0#21 ∧
      ((0x00000052#32).extractLsb' 0 4).toNat = 2 ∧ ((0x00000052#32).extractLsb' 8 3).toNat = 0 ∧
      ((0x00000052#32).extractLsb' 4 3).toNat = 5) ∧
    ((0x00000042#32).extractLsb' 7 1 = 0#1 ∧ (0x00000042#32).extractLsb' 11 21 = 0#21 ∧
      ((0x00000042#32).extractLsb' 0 4).toNat = 2 ∧ ((0x00000042#32).extractLsb' 8 3).toNat = 0 ∧
      ((0x00000042#32).extractLsb' 4 3).toNat = 4) := by decide

theorem witness_OperandRegistersReadBack :
    0x1C ∈ [0x08, 0x0C, 0x10, 0x14, 0x18, 0x1C, 0x24, 0x28] ∧ (0x20 : Nat) ≠ 0x1C := by decide

theorem witness_ReservedAndReadOnlyOffsets :
    (0x34 ≤ 0x34 ∧ 0x34 ≤ 0xFC ∧ 0x34 % 4 = 0) ∧ (0x34 ≤ 0xFC ∧ 0xFC ≤ 0xFC ∧ 0xFC % 4 = 0) ∧
    (bench .initialized).par.WellFormed = true := by decide

theorem witness_OtherAccessesAreRefused : (2 ≠ 4 ∨ 8 % 4 ≠ 0) ∧ (4 ≠ 4 ∨ 9 % 4 ≠ 0) := by decide

theorem witness_StepRunsTheDecodedCommand :
    let s := { bench .initialized with host := [.store 0x00 4 0x00000609] }
    let t := { bench .initialized with host := [.store 0x00 4 0x00000009, .wait], turns := [.host] }
    nextAgent s = .host ∧ nextAgent t = .host ∧ t.host = .store 0x00 4 0x00000009 :: [.wait] ∧
    decode 0x00000009 = .ok .panelSleep ∧ decode 0x00000609 = .error .badCommand := by decide

theorem witness_StepRunsTheEngine :
    nextAgent started = .engine ∧ nextAgent { bench .sleeping with turns := [.engine] } = .engine := by decide

theorem witness_WordWhileBusyIsDropped : started.busy = true := by decide

theorem witness_AcceptLatchesAndStarts :
    (imageC.busy = false ∧ AcceptOk .quantizeNone imageC ∧ AcceptOk .quantizeFs imageC ∧
      AcceptOk .quantizeHalftone imageC ∧ AcceptOk .quantizeOrdered imageC ∧ AcceptOk .quantizePopart imageC) ∧
    (gridK1.busy = false ∧ AcceptOk .pack gridK1) ∧
    ((bench .resetting).busy = false ∧ AcceptOk .panelReset (bench .resetting) ∧
      AcceptOk .panelInit (bench .resetting)) ∧
    (fullBench.busy = false ∧ AcceptOk .panelFull fullBench ∧ AcceptOk .panelSleep fullBench) ∧
    (partialBench.busy = false ∧ AcceptOk .panelPartial partialBench) ∧
    (blankBench.busy = false ∧ AcceptOk (.panelBlank 3) blankBench) :=
  ⟨⟨rfl, quantizeOk_imageC, quantizeOk_imageC, quantizeOk_imageC, quantizeOk_imageC, quantizeOk_imageC⟩,
    ⟨rfl, packOk_gridK1⟩, ⟨rfl, trivial, rfl⟩, ⟨rfl, fullOk_fullBench, rfl⟩, ⟨rfl, partialOk_partialBench⟩,
    ⟨rfl, blankOk_blankBench⟩⟩

theorem witness_AcceptFrame :
    started.busy = true ∧ imageC.busy = false ∧ Instr.pack ≠ .matchRgb := by decide

theorem witness_EngineStepFrame : ∃ t, engineStep started = .next t := ⟨_, rfl⟩

theorem witness_MatchPutsTheNearestCodeInResult : (bench .sleeping).busy = false := by decide

/-- The ends of the two ranges of R168. -/
theorem witness_GreysMatchBlackOrWhite :
    [0, 127, 128, 255].map (fun v : Int => nearest defaultPalette { r := v, g := v, b := v }) =
      [.black, .black, .white, .white] := by decide

/-- E-8, E-10 and E-11: one state for each clause. -/
theorem witness_QuantizeRejectsInOrder :
    isQuantize .quantizeFs = true ∧ (bench .initialized).busy = false ∧
    (liveOp (imageAt 0 1 0 0 (bench .initialized))).imgW = 0 ∧
    (1 ≤ (liveOp (imageAt 1 1 0xFFE 0 (bench .initialized))).imgW ∧
      0x1000 < (liveOp (imageAt 1 1 0xFFE 0 (bench .initialized))).src + 3 * (1 * 1)) ∧
    (let o := liveOp (imageAt 2 2 0x100 0x10B (bench .initialized))
     1 ≤ o.imgW ∧ 1 ≤ o.imgH ∧ ¬ (0x1000 < o.src + 3 * (o.imgW * o.imgH) ∨ 0x1000 < o.dst + o.imgW * o.imgH) ∧
      (o.src ≤ 0x10B ∧ 0x10B < o.src + 3 * (o.imgW * o.imgH)) ∧
      (o.dst ≤ 0x10B ∧ 0x10B < o.dst + o.imgW * o.imgH)) := by decide

theorem witness_QuantizeFillsTheGrid :
    imageC.busy = false ∧ Memory.wf imageC.mem ∧ QuantizeOk imageC ∧ (2 < (liveOp imageC).imgW ∧
      1 < (liveOp imageC).imgH) := ⟨rfl, by decide, quantizeOk_imageC, by decide⟩

theorem witness_QuantizeWritesOnlyPaletteCodes :
    (Memory.wf started.mem ∧ started.busy = true ∧ decode started.op.word = .ok .quantizeNone ∧
      isQuantize .quantizeNone = true ∧
      (nextOf started (engineStep started)).mem.read 0x40 ≠ started.mem.read 0x40) ∧
    isQuantize .quantizePopart = true ∧ inDst .quantizePopart (liveOp imageC) 0x40 = true ∧
    inDst .quantizePopart (liveOp imageC) 0x45 = true ∧ inDst .quantizePopart (liveOp imageC) 0x46 = false := by
  decide

/-- A one-column image: its two guard elements and one column. -/
theorem witness_AccumulatorsStayBounded :
    1 ≤ 1 ∧ (fsBefore defaultPalette (fun _ _ => { r := 127, g := 127, b := 127 }) 1 1).cur.r = [381, 635, 127] := by
  decide

/-- Two images that agree in 3 × 2 pixels and differ outside. -/
theorem witness_GridDependsOnlyOnTheImage :
    let img : Nat → Nat → Chans Nat := fun x y => if x < 3 ∧ y < 2 then { r := x, g := y, b := 9 } else { r := 0, g := 0, b := 0 }
    let img' : Nat → Nat → Chans Nat := fun x y => { r := x, g := y, b := 9 }
    isQuantize .quantizeHalftone = true ∧ (∀ x y, x < 3 → y < 2 → img x y = img' x y) ∧ 5 < 3 * 2 ∧
    img 3 0 ≠ img' 3 0 := by
  refine ⟨rfl, fun x y hx hy => ?_, by decide, by decide⟩
  simp [hx, hy]

/-- The table's ends: average luminance 0, 7, 8 and 255, and the empty cell. -/
theorem witness_DotSizeFollowsTheTable :
    [(1, 0), (1, 7), (1, 8), (1, 255), (16, 4080), (0, 3)].map (fun p => (decide (p.2 / p.1 ≤ 255), dotSize p.1 p.2)) =
      [(true, 16), (true, 16), (true, 15), (true, 0), (true, 0), (true, 16)] := by decide

/-- A flat image and itself, one period further on; the block of the pixel (0, 0). -/
theorem witness_ModesArePeriodic :
    let flat : Nat → Nat → Chans Nat := fun _ _ => { r := 200, g := 30, b := 40 }
    (∀ x' y', x' < 16 → y' < 16 → x' + 4 * 1 < 16 → y' + 4 * 1 < 16 → flat (x' + 4 * 1) (y' + 4 * 1) = flat x' y') ∧
    (∀ x' y', x' < 16 → y' < 16 → x' + 8 * 1 < 16 → y' + 8 * 1 < 16 → flat (x' + 8 * 1) (y' + 8 * 1) = flat x' y') ∧
    (11 < 16 ∧ 11 + 4 * 1 < 16) ∧
    (4 * (11 / 4) + 4 ≤ 16 ∧ 4 * ((11 + 4 * 1) / 4) + 4 ≤ 16) ∧
    (8 * (7 / 8) + 8 ≤ 16 ∧ 8 * ((7 + 8 * 1) / 8) + 8 ≤ 16) :=
  ⟨fun _ _ _ _ _ _ => rfl, fun _ _ _ _ _ _ => rfl, by decide, by decide, by decide⟩

/-- E-14 and the edges of the other clauses. -/
theorem witness_PackRejectsInOrder :
    (bench .initialized).busy = false ∧
    (liveOp (imageAt 1 0 0 0 (bench .initialized))).imgH = 0 ∧
    (let o := liveOp (imageAt 3 2 0 0xFFD (bench .initialized))
     1 ≤ o.imgW ∧ 1 ≤ o.imgH ∧ 0x1000 < o.dst + o.imgH * ceilDiv o.imgW 2) ∧
    (let o := liveOp (imageAt 3 2 0x40 0x45 (bench .initialized))
     1 ≤ o.imgW ∧ 1 ≤ o.imgH ∧ ¬ (0x1000 < o.src + o.imgW * o.imgH ∨ 0x1000 < o.dst + o.imgH * ceilDiv o.imgW 2) ∧
      (o.src ≤ 0x45 ∧ 0x45 < o.src + o.imgW * o.imgH) ∧
      (o.dst ≤ 0x45 ∧ 0x45 < o.dst + o.imgH * ceilDiv o.imgW 2)) := by decide

theorem witness_PackFillsTheFrameBuffer :
    gridK1.busy = false ∧ Memory.wf gridK1.mem ∧ PackOk gridK1 ∧
    (∀ j, j < (liveOp gridK1).imgW * (liveOp gridK1).imgH →
      gridK1.mem.read ((liveOp gridK1).src + j) ∈ [0x00#8, 0x01#8, 0x02#8, 0x03#8, 0x05#8, 0x06#8]) ∧
    (2 * 1 + 1 = (liveOp gridK1).imgW) := ⟨rfl, by decide, packOk_gridK1, by decide, by decide⟩

/-- Each of the three commands, the bad byte the first or the last one, in the high or in the low nibble. -/
theorem witness_BadIndexEndsBeforeAnyEffect :
    (let s := putBytes 0x40 [4] gridK1
     s.busy = false ∧ PackOk s ∧ 0 < (liveOp s).imgW * (liveOp s).imgH ∧
      s.mem.read ((liveOp s).src + 0) ∉ [0x00#8, 0x01#8, 0x02#8, 0x03#8, 0x05#8, 0x06#8]) ∧
    (let s := putBytes 0x103 [0x47] fullBench
     s.busy = false ∧ FullOk s ∧ 3 < (liveOp s).len ∧
      (s.mem.read ((liveOp s).src + 3)).extractLsb' 4 4 ∉ [0#4, 1#4, 2#4, 3#4, 5#4, 6#4]) ∧
    (let s := putBytes 0x100 [0x17] partialBench
     s.busy = false ∧ PartialOk s ∧ 0 < (liveOp s).len ∧
      (s.mem.read ((liveOp s).src + 0)).extractLsb' 0 4 ∉ [0#4, 1#4, 2#4, 3#4, 5#4, 6#4]) :=
  ⟨⟨rfl, ⟨by decide, by decide, by decide, by decide, by decide⟩, by decide, by decide⟩,
    ⟨rfl, ⟨by decide, by decide, by decide⟩, by decide, by decide⟩,
    ⟨rfl, ⟨by decide, ⟨by decide, by decide, by decide, by decide⟩, by decide, by decide⟩, by decide, by decide⟩⟩

/-- Width 1 has a padding nibble in each byte. -/
theorem witness_UnpackThenPackRoundTrips :
    1 ≤ 1 ∧ (∀ x y : Nat, validByte ((fun _ _ => 0x06#8) x y) = true) ∧ 0 < 1 ∧ 0 < ceilDiv 1 2 :=
  ⟨by decide, fun _ _ => rfl, by decide, by decide⟩

theorem witness_WrongStateIsRefusedWithoutTraffic :
    ∀ p ∈ [PState.uninitialized, .sleeping],
      (bench p).busy = false ∧ (bench p).pstate ≠ .resetting ∧ (bench p).pstate ≠ .initialized := by decide

/-- A state for each clause, at its edge, on the 4 × 2 panel. -/
theorem witness_TransferOperandsAreCheckedInOrder :
    fullBench.busy = false ∧ fullBench.pstate = .initialized ∧
    (liveOp { fullBench with bufLen := 3 }).len ≠ 2 * ceilDiv 4 2 ∧
    (let s := { fullBench with srcAddr := 0xFFD }
     (liveOp s).len = 2 * ceilDiv 4 2 ∧ 0 < (liveOp s).len ∧ s.par.memSize < (liveOp s).src + (liveOp s).len) ∧
    ¬ WindowOk (windowAt 1 0 4 1 fullBench) ∧ ¬ WindowOk (windowAt 0 0 0 1 fullBench) ∧
    (WindowOk partialBench ∧ (liveOp { partialBench with bufLen := 4 }).len ≠ 2 * ceilDiv 2 2) ∧
    (WindowOk { partialBench with srcAddr := 0xFFF } ∧
      (liveOp { partialBench with srcAddr := 0xFFF }).len = 2 * ceilDiv 2 2 ∧
      0x1000 < (liveOp { partialBench with srcAddr := 0xFFF }).src + 2) ∧
    (¬ AreaOk (windowAt 0 0 5 1 fullBench) ∧ ¬ AreaOk (windowAt 0 0 1 0 fullBench)) := by
  refine ⟨rfl, rfl, by decide, by decide, fun h => ?_, fun h => ?_, ⟨windowOk_partialBench, by decide⟩,
    ⟨⟨by decide, by decide, by decide, by decide⟩, by decide, by decide⟩, fun h => ?_, fun h => ?_⟩
  · exact absurd h.right (by decide)
  · exact absurd h.width (by decide)
  · exact absurd h.width (by decide)
  · exact absurd h.height (by decide)

theorem witness_PanelResetDrivesTheResetLine : (bench .sleeping).busy = false := by decide

/-- INIT_SEQ's wait reads busy once; SLEEP_SEQ has no wait. -/
theorem witness_PanelInitAndSleepRunTheirLists :
    ((bench .resetting).busy = false ∧ (bench .resetting).pstate = .resetting ∧
      listEvents false 2 benchParams.initSeq [false, true, true] =
        some ([.cmd 1, .data 7, .poll false, .delay .pollInterval, .poll true], [true], false)) ∧
    ((bench .initialized).pstate = .initialized ∧
      listEvents false 2 benchParams.sleepSeq [] = some ([.cmd 0x07, .data 0xA5], [], false)) := by decide

theorem witness_PanelFullSendsTheBufferAndRefreshes :
    fullBench.busy = false ∧ FullOk fullBench ∧
    (∀ j, j < (liveOp fullBench).len → validPair (fullBench.mem.read ((liveOp fullBench).src + j)) = true) ∧
    (listEvents fullBench.par.busyActive fullBench.busyTimeout.toNat fullBench.par.refreshSeq fullBench.levels).map
      (fun r => r.2) = some ([], false) := ⟨rfl, fullOk_fullBench, by decide, by decide⟩

theorem witness_PanelPartialSendsTheWindowFirst :
    partialBench.busy = false ∧ partialBench.par.WellFormed = true ∧ PartialOk partialBench ∧
    (∀ j, j < (liveOp partialBench).len →
      validPair (partialBench.mem.read ((liveOp partialBench).src + j)) = true) ∧
    (listEvents partialBench.par.busyActive partialBench.busyTimeout.toNat partialBench.par.refreshSeq
      partialBench.levels).map (fun r => r.2) = some ([], false) :=
  ⟨rfl, by decide, partialOk_partialBench, by decide, by decide⟩

theorem witness_PanelBlankSendsTheFillByte :
    blankBench.busy = false ∧ BlankOk 3 blankBench ∧
    (listEvents blankBench.par.busyActive blankBench.busyTimeout.toNat blankBench.par.refreshSeq
      blankBench.levels).map (fun r => r.2) = some ([], false) := ⟨rfl, blankOk_blankBench, by decide⟩

/-- Each command's list times out on two busy readings, or its operands allow it to start. -/
theorem witness_TimeoutRestoresThePanelState :
    (let s := { bench .resetting with levels := [false, false, true] }
     s.busy = false ∧ s.pstate = .resetting ∧
      listEvents s.par.busyActive s.busyTimeout.toNat s.par.initSeq s.levels =
        some ([.cmd 1, .data 7, .poll false, .delay .pollInterval, .poll false], [true], true)) ∧
    (let s := { bench .initialized with
        par := { benchParams with sleepSeq := [.waitBusy] }, levels := [false, false] }
     s.busy = false ∧ s.pstate = .initialized ∧
      listEvents s.par.busyActive s.busyTimeout.toNat s.par.sleepSeq s.levels =
        some ([.poll false, .delay .pollInterval, .poll false], [], true)) ∧
    (listEvents false 2 defaultRefreshSeq [true, false, false] =
      some ([.cmd 0x04, .poll true, .cmd 0x12, .data 0x00, .poll false, .delay .pollInterval, .poll false],
        [], true)) ∧
    (listEvents false 1 defaultRefreshSeq [false] = some ([.cmd 0x04, .poll false], [], true)) ∧
    (blankBench.busy = false ∧ BlankOk 3 blankBench) ∧ (fullBench.busy = false ∧ FullOk fullBench) ∧
    (partialBench.busy = false ∧ PartialOk partialBench) :=
  ⟨by decide, by decide, by decide, by decide, ⟨rfl, blankOk_blankBench⟩, ⟨rfl, fullOk_fullBench⟩,
    ⟨rfl, partialOk_partialBench⟩⟩

theorem witness_UnboundedWaitNeverEndsOnABusyLine :
    Inv waiting ∧ waiting.busy = true ∧
    waiting.seq = .poll [.cmd 0x12, .data 0x00, .waitBusy, .cmd 0x02, .data 0x00, .waitBusy] ∧
    waiting.op.timeout = 0 ∧ waiting.levels = List.replicate 3 waiting.par.busyActive ++ [false] :=
  ⟨inv_waiting, by decide, by decide, by decide, by decide⟩

/-- A PANEL_SLEEP that has just been accepted, at the reset value of BUSY_TIMEOUT. -/
def sleeping : State := accepted .panelSleep { bench .initialized with busyTimeout := 0 }

/-- A blank that has just been accepted, with a bound of 1. -/
def blanking : State := accepted (.panelBlank 3) { blankBench with busyTimeout := 1 }

theorem inv_sleeping : Inv sleeping :=
  ⟨by decide, by decide, by decide, by decide, by decide, by decide, by decide,
    fun h => absurd h (by decide), fun _ => ⟨.panelSleep, by decide, by decide, by decide, by
      intro p h; cases h; decide, ⟨by decide, by decide⟩, by decide⟩⟩

theorem inv_blanking : Inv blanking :=
  ⟨by decide, by decide, by decide, by decide, by decide, by decide, by decide,
    fun h => absurd h (by decide), fun _ => ⟨.panelBlank 3, by decide, by decide, by decide, by
      intro p h; cases h; decide, ⟨by decide, by decide⟩, by decide⟩⟩

/-- Commands with no busy-wait to come, one of them a step list at BUSY_TIMEOUT 0, and one whose bound is 1. -/
theorem witness_RunningCommandsEnd :
    (Inv started ∧ started.busy = true ∧ decode started.op.word = .ok .quantizeNone ∧
      PanelStep.waitBusy ∉ stepsToRun .quantizeNone started) ∧
    (Inv sleeping ∧ sleeping.busy = true ∧ decode sleeping.op.word = .ok .panelSleep ∧
      PanelStep.waitBusy ∉ stepsToRun .panelSleep sleeping ∧ sleeping.op.timeout = 0) ∧
    (Inv blanking ∧ blanking.busy = true ∧ decode blanking.op.word = .ok (.panelBlank 3) ∧
      PanelStep.waitBusy ∈ stepsToRun (.panelBlank 3) blanking ∧ 1 ≤ blanking.op.timeout) :=
  ⟨⟨inv_started, by decide, by decide, by decide⟩, ⟨inv_sleeping, by decide, by decide, by decide, by decide⟩,
    ⟨inv_blanking, by decide, by decide, by decide, by decide⟩⟩

theorem runData_started : RunData started := by
  intro _ i hi
  have h : i = .quantizeNone := by
    have hd : decode started.op.word = .ok .quantizeNone := by decide
    rw [hd] at hi; injection hi with hi; exact hi.symm
  subst h
  exact ⟨fun _ _ => rfl, fun j hj => by revert j; decide, trivial⟩

theorem runData_painted : RunData painted := by
  intro _ i hi
  have h : i = .quantizeNone := by
    have hd : decode painted.op.word = .ok .quantizeNone := by decide
    rw [hd] at hi; injection hi with hi; exact hi.symm
  subst h
  refine ⟨fun a ha => ?_, fun j hj => by revert j; decide, trivial⟩
  have h : a < 18 := by
    simp only [inSrc, inRange, Bool.and_eq_true, decide_eq_true_eq] at ha
    exact lt_of_lt_of_le ha.2 (by decide)
  clear ha
  revert a
  decide

theorem runData_badPack : RunData badPack := by
  intro _ i hi
  have h : i = .pack := by
    have hd : decode badPack.op.word = .ok .pack := by decide
    rw [hd] at hi; injection hi with hi; exact hi.symm
  subst h
  refine ⟨fun _ _ => rfl, fun j hj => by revert j; decide, fun k hk => ?_, fun k hk => ?_⟩
  · have h1 : badPack.seq = .check 1 := by decide
    rw [h1] at hk; injection hk with hk; subst hk; decide
  · have h1 : badPack.seq = .check 1 := by decide
    rw [h1] at hk; cases hk

theorem witness_EveryStepKeepsTheInvariant :
    (Inv started ∧ ∃ t, step started = .next t) ∧
    (Inv (bench .initialized) ∧ ∃ t, step (bench .initialized) = .next t) :=
  ⟨⟨inv_started, _, rfl⟩, inv_bench, _, rfl⟩

/-- In the middle of a run: an engine step, and a host load of a grid byte. -/
theorem witness_EveryStepKeepsTheRunData :
    (Inv started ∧ RunData started ∧ ∃ t, step started = .next t) ∧
    (∃ t, step { started with turns := [.host], host := [.memLoad 0x40] } = .next t) :=
  ⟨⟨inv_started, runData_started, _, rfl⟩, _, rfl⟩

/-- The last step of a QUANTIZE, and the step in which a PACK fails. -/
theorem witness_CompletionLeavesAllWrites :
    (Inv painted ∧ RunData painted ∧ painted.busy = true ∧ decode painted.op.word = .ok .quantizeNone ∧
      nextAgent painted = .engine ∧ ∃ t, step painted = .next t ∧ t.busy = false ∧ t.done = true) ∧
    (Inv badPack ∧ RunData badPack ∧ badPack.busy = true ∧ decode badPack.op.word = .ok .pack ∧
      nextAgent badPack = .engine ∧ ∃ t, step badPack = .next t ∧ t.busy = false ∧ t.err = true) :=
  ⟨⟨inv_painted, runData_painted, by decide, by decide, by decide, _, rfl, rfl, rfl⟩,
    ⟨inv_badPack, runData_badPack, by decide, by decide, by decide, _, rfl, rfl, rfl⟩⟩

theorem witness_TheEngineNeverStops : Inv started ∧ Inv painted ∧ Inv waiting :=
  ⟨inv_started, inv_painted, inv_waiting⟩

/-- A QUANTIZE that writes its first byte, and a blank in its busy-wait. -/
theorem witness_EngineWritesOnlyItsDestination :
    (Memory.wf started.mem ∧ started.busy = true ∧ decode started.op.word = .ok .quantizeNone ∧
      (∃ t, engineStep started = .next t ∧ t.mem.read 0x40 = 3) ∧
      inDst .quantizeNone started.op 0x3F = false ∧ inDst .quantizeNone started.op 0x46 = false) ∧
    (Memory.wf waiting.mem ∧ waiting.busy = true ∧ decode waiting.op.word = .ok (.panelBlank 0) ∧
      isQuantize (.panelBlank 0) = false ∧ Instr.panelBlank 0 ≠ .pack ∧ ∃ t, engineStep waiting = .next t) :=
  ⟨⟨by decide, by decide, by decide, ⟨_, rfl, by decide⟩, by decide, by decide⟩,
    ⟨by decide, by decide, by decide, by decide, by decide, _, rfl⟩⟩

theorem witness_OnlyPanelCommandsTouchThePanel :
    Inv started ∧ started.busy = true ∧ decode started.op.word = .ok .quantizeNone ∧
    isPanel .quantizeNone = false ∧ ∃ t, engineStep started = .next t :=
  ⟨inv_started, by decide, by decide, by decide, _, rfl⟩

/-- A step of a state that is Uninitialized already, and the engine reset of an Initialized one. -/
theorem witness_OnlyEngineResetGivesUninitialized :
    (∃ t, step started = .next t ∧ t.pstate = .uninitialized) ∧
    (∃ t, step { bench .initialized with host := [.powerCycle] } = .next t ∧ t.pstate = .uninitialized) :=
  ⟨⟨_, rfl, rfl⟩, _, rfl, rfl⟩

/-- A dropped word, the steps that clear DROPPED, and a step that leaves it. -/
theorem witness_DroppedStaysUntilCleared :
    (let s := { started with turns := [.host], host := [.store 0x00 4 1] }
     s.busy = true ∧ HostWillDo (.store 0x00 4 1) s ∧ ∃ t, step s = .next t) ∧
    (let s := { bench .initialized with dropped := true, host := [.store 0x04 4 0x800] }
     HostWillDo (.store 0x04 4 0x800) s ∧ (0x800#32).getLsbD 11 = true ∧ ∃ t, step s = .next t) ∧
    (let s := { bench .initialized with dropped := true, host := [.powerCycle] }
     HostWillDo .powerCycle s ∧ ∃ t, step s = .next t) ∧
    (∃ t, step { started with dropped := true } = .next t ∧ t.dropped = true) :=
  ⟨⟨rfl, ⟨rfl, rfl⟩, _, rfl⟩, ⟨⟨rfl, rfl⟩, by decide, _, rfl⟩, ⟨⟨rfl, rfl⟩, _, rfl⟩, _, rfl, rfl⟩

theorem witness_ResultChangesOnlyAtCompletion :
    ∃ t, engineStep painted = .next t ∧ t.result ≠ painted.result := ⟨_, rfl, by decide⟩

/-- The step that pulls the line low, and the engine reset that raises it. -/
theorem witness_OnlyPanelResetMovesTheResetLine :
    (let s := nextOf imageC (engineRun 3 (accepted .panelReset (bench .sleeping)))
     ∃ t, step s = .next t ∧ t.rstOut ≠ s.rstOut) ∧
    (let s := { bench .resetting with rstOut := false, host := [.powerCycle] }
     ∃ t, step s = .next t ∧ t.rstOut ≠ s.rstOut) := ⟨⟨_, rfl, by decide⟩, _, rfl, by decide⟩

/-- A state at rest, and one in mid-command with its first and last destination bytes and their neighbours. -/
theorem witness_EngineResetClearsTheEngine :
    Memory.wf imageC.mem ∧ imageC.busy = false ∧ Memory.wf started.mem ∧ started.busy = true ∧
    decode started.op.word = .ok .quantizeNone ∧ inDst .quantizeNone started.op 0x40 = true ∧
    inDst .quantizeNone started.op 0x45 = true ∧ inDst .quantizeNone started.op 0x46 = false := by decide

theorem witness_HostAccessToARunningRange :
    started.busy = true ∧ decode started.op.word = .ok .quantizeNone ∧ 0x45 < started.par.memSize ∧
    inDst .quantizeNone started.op 0x45 = true ∧ inSrc .quantizeNone started.op 0x11 = true ∧
    inDst .quantizeNone started.op 0x11 = false ∧ inSrc .quantizeNone started.op 0x12 = false := by decide

/-- The last byte of data memory and the first address past it, on an idle engine; while a command runs, the first
byte past its source and the one past its destination. -/
theorem witness_HostStoreWritesOneByte :
    (Memory.wf imageC.mem ∧ inRunningRange imageC 0xFFF = false ∧ 0xFFF < imageC.par.memSize ∧
      imageC.par.memSize ≤ 0x1000) ∧
    (Memory.wf started.mem ∧ started.busy = true ∧ inRunningRange started 0x11 = true ∧
      inRunningRange started 0x12 = false ∧ inRunningRange started 0x46 = false ∧ 0x46 < started.par.memSize) := by
  decide

/-- The window's last register, loads beside and inside a running destination, and `wait` in both states. -/
theorem witness_HostLoadsChangeNothing :
    (0xFC % 4 = 0 ∧ 0xFC < 256) ∧ (0xFFF < imageC.par.memSize ∧ inRunningDst imageC 0xFFF = false) ∧
    (0x45 < started.par.memSize ∧ inRunningDst started 0x45 = true ∧ inRunningDst started 0x46 = false) ∧
    imageC.busy = false ∧ started.busy = true ∧
    (nextAgent { started with turns := [.host], host := [.wait, .load 0x20 4] } = .host) := by decide

end Sys2Proof.Tests
end

section
/-! PROOFS. Scope: whose turn a step is (00_scope.md R10, assumption log 4). -/

namespace Sys2Proof.Machine

/-- The engine's half of `step`; `step_cases` in Laws/HostPort.lean is the inversion for both agents. -/
theorem step_of_nextAgent_engine {s : State} (hturn : nextAgent s = .engine) :
    step s = engineStep (takeTurn s) := by
  unfold step
  rw [hturn]
  rfl

/-- Settles O11: the engine's branch of `agentStep`, with the turn taken off the list first. -/
theorem stepRunsTheEngine : Obligations.StepRunsTheEngine :=
  fun _ hturn => step_of_nextAgent_engine hturn

end Sys2Proof.Machine
end

section
/-! PROOFS. State: what one step of the machine can do, and the invariant it keeps (10_state.md R38, R40,
20_memory.md R81, R95, R96, 43_panel.md R259, R261, 70_reset_and_hazards.md R350). -/

namespace Sys2Proof.Machine

theorem HostOwnOnly.trans {s s' t : State} (h₁ : HostOwnOnly s s') (h₂ : HostOwnOnly s' t) : HostOwnOnly s t := by
  rw [HostOwnOnly, h₂, h₁]

theorem HostOwnOnly.par {s t : State} (h : HostOwnOnly s t) : t.par = s.par := by rw [h]

theorem HostOwnOnly.pstate {s t : State} (h : HostOwnOnly s t) : t.pstate = s.pstate := by rw [h]

theorem HostOwnOnly.rstOut {s t : State} (h : HostOwnOnly s t) : t.rstOut = s.rstOut := by rw [h]

theorem hostOwnOnly_takeTurn (s : State) : HostOwnOnly s (takeTurn s) := rfl

/-- What a step can do: one effect of the host on a state `u` that differs from `s` in the host's own
side alone, or an engine step. -/
inductive StepEffect (s : State) : State → Prop
  | hostOwn {t : State} (hown : HostOwnOnly s t) : StepEffect s t
  | presented {u t : State} (hown : HostOwnOnly s u) (hidle : u.busy = false) (hword : Presented u t) : StepEffect s t
  | memStore {u : State} {a : Nat} (b : Byte) (hown : HostOwnOnly s u) (ha : a < u.par.memSize)
      (hfree : inRunningRange u a = false) : StepEffect s (hostMemStore a b u)
  | engineReset {u : State} (hwill : HostWillDo .powerCycle s) (hown : HostOwnOnly s u) :
      StepEffect s (logAccess .powerCycled (engineReset u))
  | engine {t : State} (hturn : nextAgent s = .engine) (hstep : engineStep (takeTurn s) = .next t) : StepEffect s t

theorem step_effect {s t : State} (h : step s = .next t) : StepEffect s t := by
  rcases step_cases h with ⟨-, -, rfl⟩ | ⟨o, rest, hturn, hhost, hacc⟩ | ⟨hturn, heng⟩
  · exact .hostOwn (hostOwnOnly_takeTurn s)
  · have taken : HostOwnOnly s { takeTurn s with host := rest } := rfl
    rcases hostAccess_cases hacc with ⟨hown, -⟩ | ⟨w, -, hidle, hword⟩ | ⟨a, b, -, ha, hfree, rfl⟩ | ⟨rfl, rfl⟩
    · exact .hostOwn (taken.trans hown)
    · exact .presented (u := logAccess (.stored 0x00 w) { takeTurn s with host := rest }) rfl hidle hword
    · exact .memStore b taken ha hfree
    · exact .engineReset ⟨hturn, by rw [hhost]; rfl⟩ taken
  · exact .engine hturn heng

/-- Nothing the host owns enters the invariant. -/
theorem Inv.of_hostOwnOnly {s t : State} (hs : Inv s) (h : HostOwnOnly s t) : Inv t := by
  rw [h]
  obtain ⟨hpar, hwf, hin, hcls, hcode, hboth, hclear, hidle, hrun⟩ := hs
  refine ⟨hpar, hwf, hin, hcls, hcode, hboth, hclear, hidle, fun hb => ?_⟩
  obtain ⟨i, hw, hf, ha, hst, hr, hp⟩ := hrun hb
  exact ⟨i, hw, hf, ha, hst, hr, hp⟩

/-- A command that ends keeps the invariant: BUSY 0, the sequencer idle, PSTATE at rest. -/
theorem Inv.of_ended {s t : State} (hs : Inv s) (hpar : t.par = s.par) (hmem : t.mem = s.mem) (hbusy : t.busy = false)
    (hseq : t.seq = .idle) (hrest : Resting t.pstate) (hcls : t.errClass = t.errCode.cls)
    (hcode : t.err = true ↔ t.errCode ≠ .noError) (hboth : ¬ (t.done = true ∧ t.err = true)) : Inv t where
  params := hpar ▸ hs.params
  canonical := hmem ▸ hs.canonical
  inside := by rw [hmem, hpar]; exact hs.inside
  cls := hcls
  code := hcode
  notBoth := hboth
  clear hb := by simp [hbusy] at hb
  idle _ := ⟨hseq, hrest⟩
  run hb := by simp [hbusy] at hb

/-- An error ends a command in order, from any state with the latched PSTATE at rest (60_exceptions.md R315, R318). -/
theorem Inv.of_raise {s u : State} {e : ErrCode} (hs : Inv s) (he : e ≠ .noError) (hpar : u.par = s.par)
    (hmem : u.mem = s.mem) (hrest : Resting u.acceptPState) : Inv (raise e u) :=
  hs.of_ended hpar hmem rfl rfl hrest rfl ⟨fun _ => he, fun _ => rfl⟩ nofun

/-- An idle engine takes a word in order (10_state.md R61). -/
theorem Inv.of_presented {s t : State} (hs : Inv s) (hb : s.busy = false) (h : Presented s t) : Inv t := by
  have hrest : Resting s.pstate := (hs.idle hb).2
  rcases h with ⟨w, e, he, rfl⟩ | rfl | ⟨i, hi, hchecks, rfl⟩
  · exact hs.of_raise he rfl rfl hrest
  · exact hs.of_ended rfl rfl rfl rfl hrest rfl ⟨nofun, fun h => absurd rfl h⟩ nofun
  · exact ⟨hs.params, hs.canonical, hs.inside, rfl, ⟨nofun, fun h => absurd rfl h⟩, nofun, fun _ => ⟨rfl, rfl⟩,
      nofun, fun _ => ⟨i, runOk_launch hi hrest hchecks⟩⟩

/-- Memory that is written inside MEM_SIZE stays in order (20_memory.md R81). -/
theorem Inv.of_hostMemStore {s : State} (hs : Inv s) {a : Nat} (ha : a < s.par.memSize) (b : Byte) :
    Inv (hostMemStore a b s) := by
  obtain ⟨hpar, hwf, hin, hcls, hcode, hboth, hclear, hidle, hrun⟩ := hs
  refine ⟨hpar, Memory.wf_write hwf a b, Memory.inside_write hin ha, hcls, hcode, hboth, hclear, hidle, fun hb => ?_⟩
  obtain ⟨i, hw, hf, ha, hst, hr, hp⟩ := hrun hb
  exact ⟨i, hw, hf, ha, hst, hr, hp⟩

/-- A running command's ranges lie in data memory, so its destination bytes do. -/
theorem dst_lt_memSize {i : Instr} {o : Op} {size j : Nat} (hf : rangesFit i o size = true) (hj : j < dstLen i o) :
    o.dst + j < size := by
  obtain ⟨-, h⟩ := (rangesFit_iff i o size).1 hf
  omega

/-- A step that goes on keeps the invariant. -/
theorem Inv.of_goesOn {i : Instr} {s t : State} (hs : Inv s) (hb : s.busy = true) (hi : RunOk i s) (h : GoesOn i s t) :
    Inv t := by
  obtain ⟨hbusy, ⟨hdone, herr, hcls, hcode⟩, -, ⟨hop, hpar, haps, ham⟩, hpos, hmem⟩ := h
  obtain ⟨hw, hf, ha, hst, hr, -⟩ := hi
  have htb : t.busy = true := hbusy.trans hb
  have hmem' : Memory.wf t.mem ∧ ∀ c ∈ t.mem, c.1 < s.par.memSize := by
    rcases hmem with hm | ⟨j, v, hj, hm⟩ <;> rw [hm]
    · exact ⟨hs.canonical, hs.inside⟩
    · exact ⟨Memory.wf_write hs.canonical _ _, Memory.inside_write hs.inside (dst_lt_memSize hf hj)⟩
  refine ⟨hpar ▸ hs.params, hmem'.1, hpar ▸ hmem'.2, ?_, ?_, ?_, fun _ => ?_, fun h => ?_, fun _ => ⟨i, ?_⟩⟩
  · rw [hcls, hcode]; exact hs.cls
  · rw [herr, hcode]; exact hs.code
  · rw [hdone, herr]; exact hs.notBoth
  · rw [hdone, herr]; exact hs.clear hb
  · simp [htb] at h
  · exact ⟨hop ▸ hw, by rw [hop, hpar]; exact hf, hop ▸ ha, haps ▸ hst, haps ▸ hr, haps ▸ hpos⟩

/-- One step of a running command keeps the invariant and the parameters. -/
theorem Inv.of_progress {i : Instr} {s t : State} (hs : Inv s) (hb : s.busy = true) (hi : RunOk i s)
    (h : Progress i s t) : Inv t ∧ t.par = s.par := by
  rcases h with hgo | hdone | ⟨e, he, rfl⟩
  · obtain ⟨-, hpar, -⟩ := hgo.latched
    exact ⟨hs.of_goesOn hb hi hgo, hpar⟩
  · obtain ⟨⟨hbusy, -, herr, hcls, hcode⟩, hseq, ⟨-, hpar, -⟩, -, hrest, hmem⟩ := hdone
    refine ⟨hs.of_ended hpar hmem hbusy hseq hrest ?_ ?_ ?_, hpar⟩
    · rw [hcls, hcode]; exact hs.cls
    · rw [herr, hcode]; exact hs.code
    · rw [herr, (hs.clear hb).2]; exact fun h => nomatch h.2
  · exact ⟨hs.of_raise he rfl rfl hi.resting, rfl⟩

/-- With the invariant an engine step that answers a next state is progress of the running command. -/
theorem Inv.progress_of_engineStep {s t : State} (hs : Inv s) (hb : s.busy = true) (h : engineStep s = .next t) :
    ∃ i, RunOk i s ∧ bodyOf i s = .next t ∧ Progress i s t := by
  obtain ⟨i, hi⟩ := hs.run hb
  obtain ⟨u, hu, hprog⟩ := body_progress hi
  rw [engineStep_eq hb hi.word hi.fits, hu] at h
  cases h
  exact ⟨i, hi, hu, hprog⟩

/-- Every engine step keeps the invariant and the parameters. -/
theorem Inv.of_engineStep {s t : State} (hs : Inv s) (h : engineStep s = .next t) : Inv t ∧ t.par = s.par := by
  by_cases hb : s.busy = true
  · obtain ⟨i, hi, -, hprog⟩ := hs.progress_of_engineStep hb h
    exact hs.of_progress hb hi hprog
  · rw [engineStep_idle (by simpa using hb)] at h
    cases h
    exact ⟨hs, rfl⟩

/-! Data memory after an engine reset (70_reset_and_hazards.md R352). -/

/-- Writing bytes one after another is `fill`. -/
theorem foldl_write_eq_fill (m : Memory) (base : Nat) (f : Nat → Byte) (n : Nat) :
    (List.range n).foldl (fun m k => m.write (base + k) (f k)) m = fill m base f n := by
  induction n with
  | zero => rfl
  | succ n ih => rw [List.range_succ, List.foldl_append, ih]; rfl

theorem inside_fill {m : Memory} {size base n : Nat} (f : Nat → Byte) (hm : ∀ c ∈ m, c.1 < size)
    (h : ∀ k, k < n → base + k < size) : ∀ c ∈ fill m base f n, c.1 < size := by
  induction n with
  | zero => exact hm
  | succ n ih => exact Memory.inside_write (ih fun k hk => h k (by omega)) (h n (by omega))

theorem running_idle {s : State} (hb : s.busy = false) : running s = none := by simp [running, hb]

theorem running_busy {s : State} {i : Instr} (hb : s.busy = true) (hd : decode s.op.word = .ok i) :
    running s = some i := by simp [running, hb, hd, Except.toOption]

theorem running_eq_some {s : State} {i : Instr} (h : running s = some i) :
    s.busy = true ∧ decode s.op.word = .ok i := by
  unfold running at h
  split at h
  · next hb =>
    refine ⟨hb, ?_⟩
    cases hd : decode s.op.word with
    | ok j => rw [hd] at h; cases h; rfl
    | error e => rw [hd] at h; cases h
  · cases h

/-- The byte an engine reset leaves at destination byte `k`. -/
def byteAfterReset (s : State) (k : Nat) : Byte :=
  oldOrNew s (Config.resetLeavesNew s.free (s.op.dst + k)) (s.op.dst + k)

theorem memAfterReset_idle {s : State} (h : running s = none) : memAfterReset s = s.mem := by
  simp [memAfterReset, h]

theorem memAfterReset_running {s : State} {i : Instr} (h : running s = some i) :
    memAfterReset s = fill s.mem s.op.dst (byteAfterReset s) (dstLen i s.op) := by
  rw [← foldl_write_eq_fill]
  simp only [memAfterReset, h, byteAfterReset]

/-- A reset leaves data memory canonical. -/
theorem wf_memAfterReset {s : State} (hw : Memory.wf s.mem) : Memory.wf (memAfterReset s) := by
  rcases h : running s with _ | i
  · rw [memAfterReset_idle h]; exact hw
  · rw [memAfterReset_running h]; exact wf_fill hw _ _ _

theorem Inv.inside_memAfterReset {s : State} (hs : Inv s) : ∀ c ∈ memAfterReset s, c.1 < s.par.memSize := by
  rcases h : running s with _ | i
  · rw [memAfterReset_idle h]; exact hs.inside
  · obtain ⟨hb, hd⟩ := running_eq_some h
    obtain ⟨j, hj⟩ := hs.run hb
    obtain rfl : j = i := by simpa [hd] using hj.word.symm
    rw [memAfterReset_running h]
    exact inside_fill _ hs.inside fun k hk => dst_lt_memSize hj.fits hk

/-- An engine reset puts the engine in order, whatever ran (R350, R352). -/
theorem Inv.of_engineReset {s : State} (hs : Inv s) : Inv (engineReset s) where
  params := hs.params
  canonical := wf_memAfterReset hs.canonical
  inside := hs.inside_memAfterReset
  cls := rfl
  code := ⟨nofun, fun h => absurd rfl h⟩
  notBoth := nofun
  clear := nofun
  idle _ := ⟨rfl, nofun, nofun⟩
  run := nofun

/-- Settles O47: each effect a step can have keeps the invariant and the parameters. -/
theorem everyStepKeepsTheInvariant : Obligations.EveryStepKeepsTheInvariant := by
  intro s t hs h
  cases step_effect h with
  | hostOwn hown => exact ⟨hs.of_hostOwnOnly hown, hown.par⟩
  | presented hown hidle hword =>
    obtain ⟨hpar, -⟩ := hword.frame
    exact ⟨(hs.of_hostOwnOnly hown).of_presented hidle hword, hpar.trans hown.par⟩
  | memStore b hown ha _ => exact ⟨(hs.of_hostOwnOnly hown).of_hostMemStore ha b, hown.par⟩
  | engineReset _ hown => exact ⟨(hs.of_hostOwnOnly hown).of_engineReset.of_hostOwnOnly rfl, hown.par⟩
  | engine _ hstep => exact (hs.of_hostOwnOnly (hostOwnOnly_takeTurn s)).of_engineStep hstep

end Sys2Proof.Machine
end

section
/-! PROOFS. State: what one step of a running command can do, whatever the state (10_state.md R61, R62,
60_exceptions.md R315), and what follows for single registers. -/

namespace Sys2Proof.Machine

/-- The commands that put a value in RESULT when they complete after their accept step (10_state.md R51). -/
def givesResult : Instr → Bool
  | .quantizeNone | .quantizeFs | .quantizeHalftone | .quantizeOrdered | .quantizePopart | .pack | .panelFull
  | .panelPartial | .panelBlank _ => true
  | .matchRgb | .panelReset | .panelInit | .panelSleep => false

/-- The positions at which a running command can fail: validation, and after a busy reading. -/
def CanFail : Seq → Prop
  | .check _ | .polled _ => True
  | _ => False

/-- What a step of command `i`'s body answers. It goes on, changing only what the engine works on; or it
completes, with all of its destination written; or it fails. -/
inductive BodyOutcome (i : Instr) (s : State) : State → Prop
  | goesOn {t : State}
      (hframe : t = { s with
        seq := t.seq, mem := t.mem, pstate := t.pstate, rstOut := t.rstOut, fs := t.fs, cellSums := t.cellSums
        tileVotes := t.tileVotes, polls := t.polls, free := t.free, levels := t.levels, trace := t.trace })
      (hline : t.rstOut = s.rstOut ∨ i = .panelReset)
      (hpstate : t.pstate = s.pstate ∨ t.pstate ≠ .uninitialized) : BodyOutcome i s t
  | completes (r : Option Nat) (hwritten : dstLen i s.op ≤ written s.seq) (hresult : r ≠ none → givesResult i = true) :
      BodyOutcome i s (complete r s)
  | fails (e : ErrCode) (hposition : CanFail s.seq) : BodyOutcome i s (raise e s)

/-- A step that moves on with PSTATE and RST_OUT as they are. -/
theorem BodyOutcome.of_frame {i : Instr} {s t : State}
    (hframe : t = { s with
      seq := t.seq, mem := t.mem, fs := t.fs, cellSums := t.cellSums, tileVotes := t.tileVotes, polls := t.polls
      free := t.free, levels := t.levels, trace := t.trace }) : BodyOutcome i s t :=
  .goesOn (by rw [hframe]) (.inl (by rw [hframe])) (.inl (by rw [hframe]))

section steps
variable {i : Instr} {s t : State}

theorem outcome_listBody {after : PState} {r : Option Nat} (h : listBody after r s = .next t)
    (hdst : dstLen i s.op = 0) (hresult : r ≠ none → givesResult i = true) (hafter : after ≠ .uninitialized) :
    BodyOutcome i s t := by
  unfold listBody at h
  split at h <;> cases h
  · next todo hq =>
    match todo with
    | [] => exact .goesOn rfl (.inl rfl) (.inr hafter)
    | .cmd _ :: _ | .data _ :: _ | .waitBusy :: _ => exact .of_frame rfl
  · unfold pollStep readBusyLine
    split <;> split <;> exact .of_frame rfl
  · next hq =>
    unfold polledStep
    split
    · exact .fails _ (by rw [hq]; trivial)
    · exact .of_frame rfl
  · exact .completes r (by omega) hresult

theorem outcome_transferBody {frames : List BusEvent} {n : Nat} {byte : Nat → Byte}
    (h : transferBody frames n byte s = .next t) (hdst : dstLen i s.op = 0) (hresult : givesResult i = true) :
    BodyOutcome i s t := by
  unfold transferBody at h
  split at h
  · cases h
    exact .goesOn rfl (.inl rfl) (.inr nofun)
  · cases h
    unfold headerStep
    split <;> exact .of_frame rfl
  · cases h
    unfold dataStep
    split <;> exact .of_frame rfl
  · cases h
    exact .goesOn rfl (.inl rfl) (.inr nofun)
  · exact outcome_listBody h hdst (fun _ => hresult) nofun

theorem outcome_bufferCheckStep {k : Nat} (hq : s.seq = .check k) : BodyOutcome i s (bufferCheckStep k s) := by
  unfold bufferCheckStep
  split
  · split
    · exact .of_frame rfl
    · exact .fails _ (by rw [hq]; trivial)
  · exact .of_frame rfl

/-- A pixel of QUANTIZE, or its completion after the last one (41_dither.md R180, R183). -/
theorem outcome_paint {k : Nat} (hi : isQuantize i = true) (hq : s.seq = .pixel k) (c : Code) (acc : FsAcc) :
    BodyOutcome i s (if k < s.op.gridBytes then { putCode k c s with fs := acc } else finishQuantize s) := by
  obtain ⟨hdst, hres⟩ : dstLen i s.op = s.op.gridBytes ∧ givesResult i = true := by
    rcases (isQuantize_iff i).1 hi with rfl | rfl | rfl | rfl | rfl <;> exact ⟨rfl, rfl⟩
  split
  · exact .of_frame rfl
  · next hk => exact .completes _ (by rw [hdst, hq]; exact Nat.le_of_not_lt hk) fun _ => hres

theorem outcome_paintStep {k : Nat} (hi : isQuantize i = true) (hq : s.seq = .pixel k) (c : Code) :
    BodyOutcome i s (paintStep k c s) := outcome_paint hi hq c s.fs

theorem outcome_resetLineStep (k : Nat) : BodyOutcome .panelReset s (resetLineStep k s) := by
  unfold resetLineStep
  split
  · exact .goesOn rfl (.inr rfl) (.inr nofun)
  iterate 6 exact .goesOn rfl (.inr rfl) (.inl rfl)
  · exact .completes none (Nat.zero_le _) fun h => absurd rfl h

theorem outcome_packCheckStep {k : Nat} (hq : s.seq = .check k) : BodyOutcome i s (packCheckStep k s) := by
  unfold packCheckStep
  split
  · split
    · exact .of_frame rfl
    · exact .fails _ (by rw [hq]; trivial)
  · exact .of_frame rfl

theorem outcome_packByteStep {k : Nat} (hq : s.seq = .packByte k) : BodyOutcome .pack s (packByteStep k s) := by
  unfold packByteStep
  split
  · exact .of_frame rfl
  · next hk => exact .completes _ (by rw [hq]; exact Nat.le_of_not_lt hk) fun _ => rfl

/-- Every step of every command's body is one of the three outcomes. -/
theorem body_outcome (h : bodyOf i s = .next t) : BodyOutcome i s t := by
  cases i with
  | matchRgb => cases h
  | quantizeNone =>
    simp only [bodyOf, bodyQuantizeNone] at h
    split at h <;> cases h
    next hq => exact outcome_paintStep rfl hq _
  | quantizeOrdered =>
    simp only [bodyOf, bodyQuantizeOrdered] at h
    split at h <;> cases h
    next hq => exact outcome_paintStep rfl hq _
  | quantizeFs =>
    simp only [bodyOf, bodyQuantizeFs] at h
    split at h <;> cases h
    · exact .of_frame rfl
    · next hq => exact outcome_paint rfl hq _ _
  | quantizeHalftone =>
    simp only [bodyOf, bodyQuantizeHalftone] at h
    split at h <;> cases h
    · exact .of_frame rfl
    · unfold cellStep
      split <;> exact .of_frame rfl
    · next hq => exact outcome_paintStep rfl hq _
  | quantizePopart =>
    simp only [bodyOf, bodyQuantizePopart] at h
    split at h <;> cases h
    · exact .of_frame rfl
    · unfold tileStep
      split <;> exact .of_frame rfl
    · next hq => exact outcome_paintStep rfl hq _
  | pack =>
    simp only [bodyOf, bodyPack] at h
    split at h <;> cases h
    · next hq => exact outcome_packCheckStep hq
    · next hq => exact outcome_packByteStep hq
  | panelReset =>
    simp only [bodyOf, bodyPanelReset] at h
    split at h <;> cases h
    exact outcome_resetLineStep _
  | panelInit | panelSleep => exact outcome_listBody h rfl (absurd rfl) nofun
  | panelFull =>
    simp only [bodyOf, bodyPanelFull] at h
    split at h
    · next hq => cases h; exact outcome_bufferCheckStep hq
    · exact outcome_transferBody h rfl rfl
  | panelPartial =>
    simp only [bodyOf, bodyPanelPartial] at h
    split at h
    · next hq => cases h; exact outcome_bufferCheckStep hq
    · exact outcome_transferBody h rfl rfl
  | panelBlank c => exact outcome_transferBody h rfl rfl

end steps

/-- An engine step does nothing, or is an outcome of the latched command's body. -/
theorem engineStep_outcome {s t : State} (h : engineStep s = .next t) :
    (s.busy = false ∧ t = s) ∨ (s.busy = true ∧ ∃ i, decode s.op.word = .ok i ∧ BodyOutcome i s t) := by
  rcases engineStep_next_cases h with hidle | ⟨hb, i, hd, -, hbody⟩
  · exact .inl hidle
  · exact .inr ⟨hb, i, hd, body_outcome hbody⟩

/-- `t` is `s` but for what the engine works on. -/
def EngineOwnOnly (s t : State) : Prop :=
  t = { s with
    busy := t.busy, done := t.done, err := t.err, errClass := t.errClass, errCode := t.errCode, result := t.result
    seq := t.seq, mem := t.mem, pstate := t.pstate, rstOut := t.rstOut, fs := t.fs, cellSums := t.cellSums
    tileVotes := t.tileVotes, polls := t.polls, free := t.free, levels := t.levels, trace := t.trace }

theorem BodyOutcome.engineOwnOnly {i : Instr} {s t : State} (h : BodyOutcome i s t) : EngineOwnOnly s t := by
  cases h with
  | goesOn hframe => rw [hframe]; rfl
  | completes | fails => rfl

theorem engineOwnOnly_of_engineStep {s t : State} (h : engineStep s = .next t) : EngineOwnOnly s t := by
  rcases engineStep_outcome h with ⟨-, rfl⟩ | ⟨-, i, -, hout⟩
  · rfl
  · exact hout.engineOwnOnly

/-- Settles O15: an engine step changes only what the engine works on. -/
theorem engineStepFrame : Obligations.EngineStepFrame := by
  intro s t h
  rw [engineOwnOnly_of_engineStep h]
  exact ⟨rfl, rfl, rfl, rfl, rfl, rfl, rfl, rfl, rfl, rfl, rfl, rfl, rfl, rfl, rfl, rfl⟩

theorem ne_of_givesResult {i : Instr} (h : givesResult i = true) :
    i ≠ .panelReset ∧ i ≠ .panelInit ∧ i ≠ .panelSleep ∧ i ≠ .matchRgb := by
  refine ⟨?_, ?_, ?_, ?_⟩ <;> rintro rfl <;> cases h

/-- Settles O55: RESULT changes only where a body completes with a value for it. -/
theorem resultChangesOnlyAtCompletion : Obligations.ResultChangesOnlyAtCompletion := by
  intro s t h hne
  rcases engineStep_outcome h with ⟨-, rfl⟩ | ⟨-, i, hd, hout⟩
  · exact absurd rfl hne
  cases hout with
  | goesOn hframe => exact absurd (by rw [hframe]) hne
  | completes r _ hresult =>
    exact ⟨rfl, rfl, i, hd, ne_of_givesResult (hresult fun hr => hne (by rw [hr]; rfl))⟩
  | fails => exact absurd rfl hne

/-- Settles O56: of all effects of a step, only PANEL_RESET's own and an engine reset reach the line. -/
theorem onlyPanelResetMovesTheResetLine : Obligations.OnlyPanelResetMovesTheResetLine := by
  intro s t h hne
  cases step_effect h with
  | hostOwn hown => exact absurd hown.rstOut hne
  | presented hown _ hword =>
    obtain ⟨-, -, -, hline, -⟩ := hword.frame
    exact absurd (hline.trans hown.rstOut) hne
  | memStore _ hown => exact absurd hown.rstOut hne
  | engineReset hwill => exact .inr hwill
  | engine hturn hstep =>
    rcases engineStep_outcome hstep with ⟨-, rfl⟩ | ⟨hb, i, hd, hout⟩
    · exact absurd rfl hne
    cases hout with
    | goesOn _ hline => exact .inl ⟨hturn, hb, (hline.resolve_left hne) ▸ hd⟩
    | completes | fails => exact absurd rfl hne

/-- A command that can fail and was accepted Uninitialized is PACK at its validation: PSTATE is still that
of the accept (43_panel.md R259, R261). -/
theorem RunOk.pstate_of_canFail {i : Instr} {s : State} (h : RunOk i s) (hq : CanFail s.seq)
    (hp : s.acceptPState = .uninitialized) : s.pstate = .uninitialized := by
  obtain ⟨-, -, -, hstart, -, hpos⟩ := h
  have hnone : ∀ p, startPState i = some p → p = .uninitialized := fun p h => (hstart p h).symm.trans hp
  cases i with
  | panelInit | panelFull | panelPartial | panelBlank _ | panelSleep => cases hnone _ rfl
  | matchRgb => cases hpos
  | quantizeNone | quantizeFs | quantizeHalftone | quantizeOrdered | quantizePopart | panelReset | pack =>
    rw [hp] at hpos
    cases hs : s.seq <;> simp_all [CanFail, seqPState]

/-- Settles O53: the only effect that makes PSTATE Uninitialized is an engine reset; a failing command
returns it to what it was at accept. -/
theorem onlyEngineResetGivesUninitialized : Obligations.OnlyEngineResetGivesUninitialized := by
  intro s t hs h hp
  cases step_effect h with
  | hostOwn hown => exact .inl (hown.pstate ▸ hp)
  | presented hown _ hword =>
    obtain ⟨-, -, hpstate, -⟩ := hword.frame
    exact .inl (hown.pstate ▸ hpstate ▸ hp)
  | memStore _ hown => exact .inl (hown.pstate ▸ hp)
  | engineReset hwill => exact .inr hwill
  | engine _ hstep =>
    rcases engineStep_outcome hstep with ⟨-, rfl⟩ | ⟨hb, i, hd, hout⟩
    · exact .inl hp
    cases hout with
    | goesOn _ _ hpstate => exact .inl (hpstate.elim (fun h => h ▸ hp) fun h => absurd hp h)
    | completes => exact .inl hp
    | fails e hq =>
      obtain ⟨j, hj⟩ := hs.run hb
      exact .inl (hj.pstate_of_canFail hq hp)

end Sys2Proof.Machine
end

section
/-! PROOFS. State: what a completed command leaves, DROPPED, and an engine reset (10_state.md R41, R62, R63,
70_reset_and_hazards.md R350 to R352). -/

namespace Sys2Proof.Machine

theorem written_of_canFail {q : Seq} (h : CanFail q) : written q = 0 := by
  cases q <;> first
    | rfl
    | cases h

/-- Settles O49: the step that completes a command has all of the destination behind it, the step that fails
none of it. -/
theorem completionLeavesAllWrites : Obligations.CompletionLeavesAllWrites := by
  intro s t i hs hdata hb hd hturn h htb
  obtain ⟨-, hdst, -⟩ := hdata hb i hd
  rw [step_of_nextAgent_engine hturn] at h
  rcases engineStep_outcome h with ⟨hidle, -⟩ | ⟨-, j, hj, hout⟩
  · exact absurd (hb.symm.trans hidle) nofun
  obtain rfl : i = j := by rw [takeTurn_op, hd] at hj; injection hj
  cases hout with
  | goesOn hframe =>
    rw [hframe] at htb
    exact absurd (hb.symm.trans htb) nofun
  | completes r hwritten =>
    refine .inl ⟨rfl, (hs.clear hb).2, fun j hj => (hdst j hj).trans (if_pos ?_)⟩
    exact Nat.lt_of_lt_of_le hj hwritten
  | fails e hq =>
    refine .inr ⟨rfl, rfl, fun j hj => (hdst j hj).trans (if_neg ?_)⟩
    rw [show written s.seq = 0 from written_of_canFail hq]
    exact Nat.not_lt_zero j

/-! DROPPED (10_state.md R41). -/

/-- The next access of a host that has one. -/
theorem hostWillDo_iff {o o' : HostOp} {rest : List HostOp} {s : State} (hturn : nextAgent s = .host)
    (hhost : s.host = o :: rest) : HostWillDo o' s ↔ o = o' := by simp [HostWillDo, hturn, hhost]

theorem not_hostWillDo_of_engine {o : HostOp} {s : State} (hturn : nextAgent s = .engine) : ¬ HostWillDo o s :=
  fun h => nomatch hturn.symm.trans h.1

theorem not_hostWillDo_of_nil {o : HostOp} {s : State} (hhost : s.host = []) : ¬ HostWillDo o s := fun h => by
  simp [HostWillDo, hhost] at h

/-- A store that is not refused is 32 bits wide (R33). -/
theorem bytes_of_store {off bytes : Nat} {v : Word} {s t : State} (h : hostAccess (.store off bytes v) s = .next t) :
    bytes = 4 := by
  by_contra hb
  simp [hostAccess, regAccessRefused, hb] at h

/-- Settles O54: with no host access DROPPED stays, and an access leaves what `droppedAfter` says. -/
theorem droppedStaysUntilCleared : Obligations.DroppedStaysUntilCleared := by
  intro s t h written cleared
  have stays : (∀ o, ¬ HostWillDo o s) → t.dropped = s.dropped →
      (written → t.dropped = true) ∧ (cleared → t.dropped = false) ∧
        (¬ written → ¬ cleared → t.dropped = s.dropped) := fun hnone hkept =>
    ⟨fun ⟨_, _, hw⟩ => absurd hw (hnone _),
      fun hc => hc.elim (fun hp => absurd hp (hnone _)) fun ⟨_, _, hv⟩ => absurd hv (hnone _), fun _ _ => hkept⟩
  rcases step_cases h with ⟨-, hhost, rfl⟩ | ⟨o, rest, hturn, hhost, hacc⟩ | ⟨hturn, heng⟩
  · exact stays (fun o => not_hostWillDo_of_nil hhost) rfl
  · have hd := hostAccess_dropped hacc
    simp only [written, cleared, hostWillDo_iff hturn hhost]
    cases o with
    | store off bytes v =>
      obtain rfl := bytes_of_store hacc
      simp only [droppedAfter] at hd
      by_cases h0 : off = 0x00
      · subst h0
        simp_all
      · by_cases h4 : off = 0x04
        · subst h4
          simp_all
        · simp_all
    | powerCycle => exact ⟨nofun, fun _ => hd, fun _ hc => absurd (.inl rfl) hc⟩
    | load _ _ | wait | memStore _ _ | memLoad _ => exact ⟨nofun, nofun, fun _ _ => hd⟩
  · refine stays (fun o => not_hostWillDo_of_engine hturn) ?_
    rw [engineOwnOnly_of_engineStep heng]
    rfl

/-! Engine reset (70_reset_and_hazards.md R350 to R352). -/

/-- A destination byte after a reset in mid-command is the old or the new one (R352). -/
theorem byteAfterReset_cases {s : State} {i : Instr} (h : running s = some i) (k : Nat) :
    byteAfterReset s k = s.acceptMem.read (s.op.dst + k) ∨
      byteAfterReset s k = newByte i s.op s.par.palette s.acceptMem (s.op.dst + k) := by
  simp only [byteAfterReset, oldOrNew, h]
  split
  · exact .inr rfl
  · exact .inl rfl

/-- Each byte of data memory after a reset in mid-command (R352). -/
theorem read_memAfterReset {s : State} {i : Instr} (hw : Memory.wf s.mem) (h : running s = some i) (a : Nat) :
    (memAfterReset s).read a = if inDst i s.op a = true then byteAfterReset s (a - s.op.dst) else s.mem.read a := by
  rw [memAfterReset_running h, read_fill hw]
  simp only [inDst, inRange_iff]

theorem statusWord_reset : statusWord State.reset = 0#32 := by decide

/-- Settles O57: the registers are those of the reset state, and data memory is `memAfterReset`. -/
theorem engineResetClearsTheEngine : Obligations.EngineResetClearsTheEngine := by
  intro s hw
  refine ⟨logAccess .powerCycled (engineReset s), rfl, statusWord_reset, rfl, rfl, rfl, rfl, rfl, rfl, rfl, rfl, rfl, rfl,
    rfl, rfl, rfl, wf_memAfterReset hw, fun hb => memAfterReset_idle (running_idle hb), fun i hb hd a => ?_⟩
  have hrun := running_busy hb hd
  have hread := read_memAfterReset hw hrun a
  refine ⟨fun ha => ?_, fun ha => ?_⟩
  · rw [if_pos ha] at hread
    have hle : s.op.dst ≤ a := ((inRange_iff _ _ _).1 ha).1
    have hcases := byteAfterReset_cases hrun (a - s.op.dst)
    rw [Nat.add_sub_cancel' hle] at hcases
    exact hcases.imp hread.trans hread.trans
  · rw [if_neg (by simp [ha])] at hread
    exact hread

end Sys2Proof.Machine
end

section
/-! PROOFS. State: the register window, and how a stored command word reaches its meaning (10_state.md R34 to
R54, R61, R63). -/

namespace Sys2Proof.Machine

/-! STATUS (R35). -/

theorem flagBit_getLsbD (b : Bool) : (flagBit b).getLsbD 0 = b := by cases b <;> rfl

/-- Where the fields of a word laid out as STATUS lie. -/
theorem statusLayout_fields (code : BitVec 8) (dropped : BitVec 1) (pstate : BitVec 3) (cls : BitVec 2)
    (err done busy : BitVec 1) :
    let v := 0#8 ++ code ++ 0#4 ++ dropped ++ pstate ++ 0#3 ++ cls ++ err ++ done ++ busy
    v.getLsbD 0 = busy.getLsbD 0 ∧ v.getLsbD 1 = done.getLsbD 0 ∧ v.getLsbD 2 = err.getLsbD 0 ∧
      v.extractLsb' 3 2 = cls ∧ v.extractLsb' 5 3 = 0#3 ∧ v.extractLsb' 8 3 = pstate ∧
      v.getLsbD 11 = dropped.getLsbD 0 ∧ v.extractLsb' 12 4 = 0#4 ∧ v.extractLsb' 16 8 = code ∧
      v.extractLsb' 24 8 = 0#8 := by
  simp only [BitVec.getLsbD_append, BitVec.extractLsb'_append_eq_of_le, BitVec.extractLsb'_append_eq_right,
    Nat.reduceLeDiff, Nat.reduceLT, Nat.reduceSub, if_true, if_false]
  decide

/-- A store to STATUS changes only DROPPED, which bit 11 clears. -/
theorem writeStatus_eq (v : Word) (s : State) : writeStatus v s = { s with dropped := s.dropped && !v.getLsbD 11 } := by
  unfold writeStatus
  cases v.getLsbD 11 <;> simp

/-- Settles O6: the fields lie where the layout of STATUS puts them, and a store is `writeStatus`. -/
theorem statusLoadAndStore : Obligations.StatusLoadAndStore := by
  refine ⟨statusWord_reset, fun s => ⟨_, rfl, statusWord s, rfl, ?_⟩, fun s v => ?_⟩
  · have h := statusLayout_fields s.errCode.bits (flagBit s.dropped) s.pstate.bits s.errClass.bits (flagBit s.err)
      (flagBit s.done) (flagBit s.busy)
    simp only [flagBit_getLsbD] at h
    exact h
  · show Host.Outcome.next (writeStatus v (logAccess (.stored 0x04 v) s)) = _
    rw [writeStatus_eq]
    rfl

/-! The operand registers (R44 to R49, R52, R53). -/

/-- The offsets of the operand registers. -/
def operandOffsets : List Nat := [0x08, 0x0C, 0x10, 0x14, 0x18, 0x1C, 0x24, 0x28]

theorem mem_operandOffsets {off : Nat} : off ∈ operandOffsets ↔ off = 0x08 ∨ off = 0x0C ∨ off = 0x10 ∨ off = 0x14 ∨
    off = 0x18 ∨ off = 0x1C ∨ off = 0x24 ∨ off = 0x28 := by simp [operandOffsets]

/-- MATCH_RGB keeps a word without its reserved bits (R49). -/
theorem zeroExtend_extract_matchRgb (v : Word) : (v.extractLsb' 0 24).zeroExtend 32 = v &&& 0x00FFFFFF#32 := by
  refine BitVec.eq_of_toNat_eq ?_
  rw [BitVec.toNat_and, show (0x00FFFFFF#32).toNat = 2 ^ 24 - 1 from rfl, Nat.and_two_pow_sub_one_eq_mod]
  simp only [BitVec.truncate_eq_setWidth, BitVec.toNat_setWidth, BitVec.extractLsb'_toNat, Nat.shiftRight_zero]
  omega

section operands
variable {off : Nat} {v : Word} {s t : State}

/-- A store to an operand register stays with what the host owns. -/
theorem regWrite_operand (hoff : off ∈ operandOffsets) (v : Word) (s : State) :
    ∃ t, regWrite off v s = .next t ∧ HostOwnOnly s t := by
  rcases mem_operandOffsets.1 hoff with rfl | rfl | rfl | rfl | rfl | rfl | rfl | rfl <;> exact ⟨_, rfl, rfl⟩

theorem regRead_regWrite_same (hoff : off ∈ operandOffsets) (h : regWrite off v s = .next t) :
    regRead t off = if off = 0x1C then v &&& 0x00FFFFFF#32 else v := by
  by_cases hrgb : off = 0x1C
  · subst hrgb
    cases h
    exact zeroExtend_extract_matchRgb v
  · rw [if_neg hrgb]
    rcases mem_operandOffsets.1 hoff with rfl | rfl | rfl | rfl | rfl | rfl | rfl | rfl <;> cases h <;> first
      | rfl
      | exact absurd rfl hrgb

theorem regRead_regWrite_other (hoff : off ∈ operandOffsets) (h : regWrite off v s = .next t) {other : Nat}
    (hne : other ≠ off) : regRead t other = regRead s other := by
  rcases mem_operandOffsets.1 hoff with rfl | rfl | rfl | rfl | rfl | rfl | rfl | rfl <;> cases h <;>
    unfold regRead <;> split <;> first
      | rfl
      | exact absurd rfl hne

end operands

/-- Settles O7: a store to an operand register is read back there, and nowhere else. -/
theorem operandRegistersReadBack : Obligations.OperandRegistersReadBack := by
  intro s v off hoff
  obtain ⟨t, h, hown⟩ := regWrite_operand hoff v s
  refine ⟨t, h, regRead_regWrite_same hoff h, fun other => regRead_regWrite_other hoff h, ?_⟩
  rw [hown]
  exact ⟨rfl, rfl, rfl, rfl, rfl, rfl, rfl, rfl, rfl, rfl, rfl, rfl, rfl⟩

/-! Reserved and read-only registers (R42, R43, R54). -/

theorem regRead_reserved (s : State) {off : Nat} (h : 0x34 ≤ off) : regRead s off = 0#32 := by
  unfold regRead
  split <;> first
    | omega
    | rfl

theorem regWrite_reserved (v : Word) (s : State) {off : Nat} (h : 0x34 ≤ off) : regWrite off v s = .next s := by
  unfold regWrite
  split <;> first
    | omega
    | rfl

/-- PANEL_DIM holds the panel's size, which has 16 bits (R13, R42). -/
theorem panelDim_fields {p : Params} (hw : p.panelW ≤ 65535) (hh : p.panelH ≤ 65535) :
    ((panelDim p).extractLsb' 0 16).toNat = p.panelW ∧ ((panelDim p).extractLsb' 16 16).toNat = p.panelH := by
  constructor
  · rw [show (panelDim p).extractLsb' 0 16 = BitVec.ofNat 16 p.panelW from BitVec.extractLsb'_append_eq_right]
    exact Nat.mod_eq_of_lt (by omega)
  · rw [show (panelDim p).extractLsb' 16 16 = BitVec.ofNat 16 p.panelH from BitVec.extractLsb'_append_eq_left]
    exact Nat.mod_eq_of_lt (by omega)

/-- The panel's size has 16 bits in each direction (00_scope.md R13). -/
theorem panel_le_of_wellFormed {p : Params} (h : p.WellFormed = true) : p.panelW ≤ 65535 ∧ p.panelH ≤ 65535 := by
  simp only [Params.WellFormed, Bool.and_eq_true, decide_eq_true_eq] at h
  omega

/-- Settles O8: no arm of the register window answers to a reserved offset, and PANEL_DIM's halves have 16 bits. -/
theorem reservedAndReadOnlyOffsets : Obligations.ReservedAndReadOnlyOffsets := by
  intro s v
  refine ⟨fun off h _ _ => ⟨regRead_reserved s h, regWrite_reserved v s h⟩, rfl, rfl, rfl, rfl, rfl, rfl, fun h => ?_⟩
  obtain ⟨hw, hh⟩ := panel_le_of_wellFormed h
  exact panelDim_fields hw hh

/-! CMD (R34, R61). -/

theorem writeCmd_ok {w : Word} {i : Instr} (h : decode w = .ok i) (s : State) : writeCmd w s = exec i s := by
  simp [writeCmd, h]

theorem writeCmd_error {w : Word} {e : DecodeError} (h : decode w = .error e) (s : State) :
    writeCmd w s = .next (rejectWord w e s) := by
  simp [writeCmd, h]

/-- A store to CMD that is no refused access presents the word, after it is recorded. -/
theorem hostAccess_store_cmd (w : Word) (s : State) :
    hostAccess (.store 0x00 4 w) s = writeCmd w (logAccess (.stored 0x00 w) s) := rfl

/-- A step of the host's turn is its next access. -/
theorem step_of_nextAgent_host {o : HostOp} {rest : List HostOp} {s : State} (hturn : nextAgent s = .host)
    (hhost : s.host = o :: rest) : step s = hostAccess o { takeTurn s with host := rest } := by
  have h : (takeTurn s).host = o :: rest := hhost
  rw [step, hturn, agentStep, hostStep, h]

/-- Settles O10: the host's turn is its next access, which presents the word to `exec`. -/
theorem stepRunsTheDecodedCommand : Obligations.StepRunsTheDecodedCommand := by
  intro s w i rest hturn hhost hd
  rw [step_of_nextAgent_host hturn hhost, hostAccess_store_cmd, writeCmd_ok hd]
  rfl

/-- Settles O12: whether the word decodes or not, `present` drops it. -/
theorem wordWhileBusyIsDropped : Obligations.WordWhileBusyIsDropped := by
  intro s w hb
  show writeCmd w s = _
  cases hd : decode w with
  | ok i => rw [writeCmd_ok hd, exec_eq, accept_busy hb]
  | error e => rw [writeCmd_error hd, rejectWord, present_busy hb]

/-! Reset (R63, 70_reset_and_hazards.md R350). -/

/-- Settles O45: `State.reset` and the default parameters evaluate to the tabled values. -/
theorem resetStateHoldsTheResetValues : Obligations.ResetStateHoldsTheResetValues :=
  ⟨statusWord_reset, rfl, rfl, rfl, rfl, rfl, rfl, rfl, rfl, rfl, rfl, rfl, by decide, rfl, rfl⟩

/-- The decided values, and the bounds the OPEN ones come with, make legal parameters (R13, R31, R81, R263). -/
theorem wellFormed_defaultParams : defaultParams.WellFormed = true := by
  have hsize := Config.memSizeLessOne.isLt
  simp only [Params.WellFormed, Bool.and_eq_true, decide_eq_true_eq]
  refine ⟨⟨⟨⟨⟨⟨⟨⟨?_, ?_⟩, ?_⟩, ?_⟩, ?_⟩, ?_⟩, ?_⟩, rfl⟩, rfl⟩ <;> simp only [defaultParams] <;> omega

/-- Settles O46: memory is empty, no flag is set and nothing runs, so only the parameters need a proof. -/
theorem resetMeetsTheInvariant : Obligations.ResetMeetsTheInvariant where
  left := {
    params := wellFormed_defaultParams
    canonical := Memory.wf_nil
    inside := nofun
    cls := rfl
    code := ⟨nofun, fun h => absurd rfl h⟩
    notBoth := nofun
    clear := nofun
    idle := fun _ => ⟨rfl, nofun, nofun⟩
    run := nofun }
  right := nofun

end Sys2Proof.Machine
end

section
/-! PROOFS. State: what accept latches and leaves, and that a running command reads only what was latched
(10_state.md R61, R363). -/

namespace Sys2Proof.Machine

/-! Accept (R61). -/

/-- A command other than MATCH starts by standing at its first position with BUSY 1. -/
theorem startOf_eq_launch {i : Instr} (hi : i ≠ .matchRgb) (s : State) : startOf i s = launch (startPosition i s.par) s := by
  cases i <;> first
    | rfl
    | exact absurd rfl hi

/-- Settles O13: a command that passes its checks is launched from its latched state. -/
theorem acceptLatchesAndStarts : Obligations.AcceptLatchesAndStarts := by
  intro s i hb hi hok
  refine ⟨_, exec_started hb hok, ?_⟩
  rw [startOf_eq_launch hi]
  exact ⟨rfl, seqPState_start hi hok⟩

/-- `t` is `s` but for what an accept can change. -/
def AcceptOwnOnly (s t : State) : Prop :=
  t = { s with
    busy := t.busy, done := t.done, err := t.err, errClass := t.errClass, errCode := t.errCode, dropped := t.dropped
    result := t.result, op := t.op, seq := t.seq, acceptPState := t.acceptPState, acceptMem := t.acceptMem }

/-- What every accept leaves, of DROPPED and RESULT too (R41, R51). -/
theorem accept_frame (i : Instr) (s : State) :
    AcceptOwnOnly s (accept i (checksOf i) (startOf i) s) ∧
      (s.busy = false → (accept i (checksOf i) (startOf i) s).dropped = s.dropped) ∧
      (i ≠ .matchRgb → (accept i (checksOf i) (startOf i) s).result = s.result) := by
  rcases accept_cases i (checksOf i) (startOf i) s with ⟨hb, h⟩ | ⟨-, e, -, h⟩ | ⟨-, -, h⟩ <;> rw [h]
  · exact ⟨rfl, fun hidle => absurd (hb.symm.trans hidle) nofun, fun _ => rfl⟩
  · exact ⟨rfl, fun _ => rfl, fun _ => rfl⟩
  · by_cases hi : i = .matchRgb
    · subst hi
      exact ⟨rfl, fun _ => rfl, fun h => absurd rfl h⟩
    · rw [startOf_eq_launch hi]
      exact ⟨rfl, fun _ => rfl, fun _ => rfl⟩

/-- Settles O14: every answer of `exec` is an accept, and each outcome of an accept has the frame. -/
theorem acceptFrame : Obligations.AcceptFrame := by
  intro s i
  obtain ⟨hown, hdropped, hresult⟩ := accept_frame i s
  refine ⟨_, exec_eq i s, ?_, ?_, ?_, ?_, ?_, ?_, ?_, ?_, ?_, ?_, ?_, ?_, ?_, ?_, ?_, ?_, ?_, ?_, ?_, ?_, ?_, ?_,
    hdropped, hresult⟩ <;> rw [hown]

/-! The live operand registers (R61, R363): every operation of the engine leaves them as they are and does the
same whatever they hold. -/

section registers
variable (r : Op) (s : State)

@[simp] theorem withRegisters_par : (withRegisters r s).par = s.par := rfl
@[simp] theorem withRegisters_op : (withRegisters r s).op = s.op := rfl
@[simp] theorem withRegisters_seq : (withRegisters r s).seq = s.seq := rfl
@[simp] theorem withRegisters_busy : (withRegisters r s).busy = s.busy := rfl
@[simp] theorem withRegisters_fs : (withRegisters r s).fs = s.fs := rfl
@[simp] theorem withRegisters_cellSums : (withRegisters r s).cellSums = s.cellSums := rfl
@[simp] theorem withRegisters_tileVotes : (withRegisters r s).tileVotes = s.tileVotes := rfl
@[simp] theorem liveImage_withRegisters : liveImage (withRegisters r s) = liveImage s := rfl
@[simp] theorem bufferByte_withRegisters : bufferByte (withRegisters r s) = bufferByte s := rfl

@[simp] theorem complete_withRegisters (n : Option Nat) :
    complete n (withRegisters r s) = withRegisters r (complete n s) := rfl

@[simp] theorem paintStep_withRegisters (k : Nat) (c : Code) :
    paintStep k c (withRegisters r s) = withRegisters r (paintStep k c s) := by
  rw [paintStep, paintStep, apply_ite (withRegisters r)]; rfl

@[simp] theorem fsPixelStep_withRegisters (k : Nat) :
    fsPixelStep k (withRegisters r s) = withRegisters r (fsPixelStep k s) := by
  rw [fsPixelStep, fsPixelStep, apply_ite (withRegisters r)]; rfl

@[simp] theorem cellStep_withRegisters (k : Nat) :
    cellStep k (withRegisters r s) = withRegisters r (cellStep k s) := by
  rw [cellStep, cellStep, apply_ite (withRegisters r)]; rfl

@[simp] theorem tileStep_withRegisters (k : Nat) :
    tileStep k (withRegisters r s) = withRegisters r (tileStep k s) := by
  rw [tileStep, tileStep, apply_ite (withRegisters r)]; rfl

@[simp] theorem packCheckStep_withRegisters (k : Nat) :
    packCheckStep k (withRegisters r s) = withRegisters r (packCheckStep k s) := by
  rw [packCheckStep, packCheckStep, apply_ite (withRegisters r), apply_ite (withRegisters r)]; rfl

@[simp] theorem packByteStep_withRegisters (k : Nat) :
    packByteStep k (withRegisters r s) = withRegisters r (packByteStep k s) := by
  rw [packByteStep, packByteStep, apply_ite (withRegisters r)]; rfl

@[simp] theorem resetLineStep_withRegisters (k : Nat) :
    resetLineStep k (withRegisters r s) = withRegisters r (resetLineStep k s) := by
  unfold resetLineStep
  split <;> rfl

@[simp] theorem bufferCheckStep_withRegisters (k : Nat) :
    bufferCheckStep k (withRegisters r s) = withRegisters r (bufferCheckStep k s) := by
  rw [bufferCheckStep, bufferCheckStep, apply_ite (withRegisters r), apply_ite (withRegisters r)]; rfl

@[simp] theorem headerStep_withRegisters (frames : List BusEvent) (k : Nat) :
    headerStep frames k (withRegisters r s) = withRegisters r (headerStep frames k s) := by
  unfold headerStep
  split <;> rfl

@[simp] theorem dataStep_withRegisters (n : Nat) (byte : Nat → Byte) (k : Nat) :
    dataStep n byte k (withRegisters r s) = withRegisters r (dataStep n byte k s) := by
  rw [dataStep, dataStep, apply_ite (withRegisters r)]; rfl

@[simp] theorem listStep_withRegisters (after : PState) (todo : List PanelStep) :
    listStep after todo (withRegisters r s) = withRegisters r (listStep after todo s) := by
  unfold listStep
  split <;> rfl

@[simp] theorem readBusyLine_withRegisters : readBusyLine (withRegisters r s) = withRegisters r (readBusyLine s) := by
  rcases h : s.levels <;> simp [readBusyLine, withRegisters, busyLevel, emit, h]

@[simp] theorem pollStep_withRegisters (todo : List PanelStep) :
    pollStep todo (withRegisters r s) = withRegisters r (pollStep todo s) := by
  rw [pollStep, pollStep, apply_ite (withRegisters r), readBusyLine_withRegisters]; rfl

@[simp] theorem polledStep_withRegisters (todo : List PanelStep) :
    polledStep todo (withRegisters r s) = withRegisters r (polledStep todo s) := by
  rw [polledStep, polledStep, apply_ite (withRegisters r)]; rfl

@[simp] theorem mapNext_next (f : State → State) : mapNext f (.next s) = .next (f s) := rfl

theorem listBody_withRegisters (after : PState) (n : Option Nat) :
    listBody after n (withRegisters r s) = mapNext (withRegisters r) (listBody after n s) := by
  unfold listBody
  rw [withRegisters_seq]
  split
  iterate 4 simp
  · rfl

theorem transferBody_withRegisters (frames : List BusEvent) (n : Nat) (byte : Nat → Byte) :
    transferBody frames n byte (withRegisters r s) = mapNext (withRegisters r) (transferBody frames n byte s) := by
  unfold transferBody
  rw [withRegisters_seq]
  split
  · rfl
  · simp
  · simp
  · rfl
  · exact listBody_withRegisters r s _ _

/-- A body reads none of the live operand registers. -/
theorem bodyOf_withRegisters (i : Instr) :
    bodyOf i (withRegisters r s) = mapNext (withRegisters r) (bodyOf i s) := by
  cases i with
  | matchRgb => rfl
  | quantizeNone =>
    simp only [bodyOf, bodyQuantizeNone, withRegisters_seq]
    split
    · simp
    · rfl
  | quantizeFs =>
    simp only [bodyOf, bodyQuantizeFs, withRegisters_seq]
    split
    · rfl
    · simp
    · rfl
  | quantizeHalftone =>
    simp only [bodyOf, bodyQuantizeHalftone, withRegisters_seq]
    split
    · rfl
    · simp
    · simp
    · rfl
  | quantizeOrdered =>
    simp only [bodyOf, bodyQuantizeOrdered, withRegisters_seq]
    split
    · simp
    · rfl
  | quantizePopart =>
    simp only [bodyOf, bodyQuantizePopart, withRegisters_seq]
    split
    · rfl
    · simp
    · simp
    · rfl
  | pack =>
    simp only [bodyOf, bodyPack, withRegisters_seq]
    split
    · simp
    · simp
    · rfl
  | panelReset =>
    simp only [bodyOf, bodyPanelReset, withRegisters_seq]
    split
    · simp
    · rfl
  | panelInit | panelSleep => exact listBody_withRegisters r s _ _
  | panelFull =>
    simp only [bodyOf, bodyPanelFull, withRegisters_seq]
    split
    · simp
    · exact transferBody_withRegisters r s _ _ _
  | panelPartial =>
    simp only [bodyOf, bodyPanelPartial, withRegisters_seq]
    split
    · simp
    · exact transferBody_withRegisters r s _ _ _
  | panelBlank c => exact transferBody_withRegisters r s _ _ _

end registers

/-- Settles O16: the engine decodes the latched word and runs its body, and neither reads a live register. -/
theorem engineReadsOnlyLatchedOperands : Obligations.EngineReadsOnlyLatchedOperands := by
  intro s r
  unfold engineStep
  rw [withRegisters_busy, withRegisters_op, withRegisters_par]
  split
  · split
    · split
      · exact bodyOf_withRegisters r s _
      · rfl
    · rfl
  · rfl

end Sys2Proof.Machine
end

section
/-! PROOFS. Memory: what the host's accesses to registers and data memory answer (10_state.md R33, 20_memory.md
R81, R93, R100, 70_reset_and_hazards.md R362). -/

namespace Sys2Proof.Machine

/-! Register accesses (R33). -/

theorem regAccessRefused_of_misaligned {off bytes : Nat} (h : bytes ≠ 4 ∨ off % 4 ≠ 0) :
    regAccessRefused off bytes = some (.registerAccess off bytes) := if_pos h

theorem regAccessRefused_of_aligned {off : Nat} (halign : off % 4 = 0) (hwindow : off < 256) :
    regAccessRefused off 4 = none := by
  simp [regAccessRefused, halign, hwindow]

/-- A load that is not refused records the register's value (R93). -/
theorem hostAccess_load {off : Nat} (halign : off % 4 = 0) (hwindow : off < 256) (s : State) :
    hostAccess (.load off 4) s = .next (logAccess (.loaded off (regRead s off)) s) := by
  simp only [hostAccess, regAccessRefused_of_aligned halign hwindow]

/-- The loop of R133 ends when BUSY is 0. -/
theorem hostAccess_wait_idle {s : State} (hb : s.busy = false) :
    hostAccess .wait s = .next (logAccess (.loaded 0x04 (statusWord s)) s) :=
  congrArg Host.Outcome.next (if_neg (by simp [hb]))

/-- While BUSY is 1 the loop of R133 stands in front of the list again. -/
theorem hostAccess_wait_busy {s : State} (hb : s.busy = true) :
    hostAccess .wait s =
      .next { logAccess (.loaded 0x04 (statusWord s)) s with host := .wait :: s.host } :=
  congrArg Host.Outcome.next (if_pos hb)

/-- Settles O9: the access check comes before the register in loads and stores alike. -/
theorem otherAccessesAreRefused : Obligations.OtherAccessesAreRefused := by
  intro s off bytes v h
  simp only [hostAccess, regAccessRefused_of_misaligned h, and_self]

/-! Bytes of data memory (R81, R93). -/

section bytes
variable {s : State} {a : Nat}

theorem hostAccess_memLoad (ha : a < s.par.memSize) : hostAccess (.memLoad a) s = .next (hostMemLoad a s) :=
  if_neg (Nat.not_le_of_lt ha)

theorem hostAccess_memLoad_fault (ha : s.par.memSize ≤ a) : hostAccess (.memLoad a) s = .fault (.noSuchByte a) :=
  if_pos ha

theorem hostAccess_memStore_fault (ha : s.par.memSize ≤ a) (b : Byte) :
    hostAccess (.memStore a b) s = .fault (.noSuchByte a) := if_pos ha

theorem hostAccess_memStore_refused (ha : a < s.par.memSize) (hr : inRunningRange s a = true) (b : Byte) :
    hostAccess (.memStore a b) s = .refused (.storeToRunningRange a) :=
  (if_neg (Nat.not_le_of_lt ha)).trans (if_pos hr)

theorem hostAccess_memStore (ha : a < s.par.memSize) (hr : inRunningRange s a = false) (b : Byte) :
    hostAccess (.memStore a b) s = .next (hostMemStore a b s) :=
  (if_neg (Nat.not_le_of_lt ha)).trans (if_neg (by simp [hr]))

theorem inRunningDst_running {i : Instr} (h : running s = some i) : inRunningDst s a = inDst i s.op a := by
  simp only [inRunningDst, h]

theorem inRunningRange_running {i : Instr} (h : running s = some i) :
    inRunningRange s a = (inSrc i s.op a || inDst i s.op a) := by
  simp only [inRunningRange, h]

/-- A byte no running command will write is loaded as it stands (R93). -/
theorem hostSees_of_not_dst (h : inRunningDst s a = false) : hostSees s a = s.mem.read a := by
  simp [hostSees, h]

/-- A load that races with a running command sees the byte at accept or the one the command leaves (R100). -/
theorem hostSees_dst {i : Instr} (hrun : running s = some i) (h : inDst i s.op a = true) :
    hostSees s a = s.acceptMem.read a ∨ hostSees s a = newByte i s.op s.par.palette s.acceptMem a := by
  rw [hostSees, inRunningDst_running hrun, if_pos h]
  simp only [oldOrNew, hrun]
  split
  · exact .inr rfl
  · exact .inl rfl

end bytes

/-- Settles O58: of a running command's ranges a load sees what `hostSees` says, and a store is refused. -/
theorem hostAccessToARunningRange : Obligations.HostAccessToARunningRange := by
  intro s i a b hb hd ha
  have hrun := running_busy hb hd
  refine ⟨⟨hostMemLoad a s, hostSees s a, hostAccess_memLoad ha, rfl, hostSees_dst hrun, fun h => ?_⟩,
    fun h => ?_⟩
  · exact hostSees_of_not_dst ((inRunningDst_running hrun).trans h)
  · refine hostAccess_memStore_refused ha ?_ b
    rw [inRunningRange_running hrun, Bool.or_eq_true]
    exact h

/-- Settles O59: a store that nothing forbids is one write of canonical data memory. -/
theorem hostStoreWritesOneByte : Obligations.HostStoreWritesOneByte := by
  intro s a b
  refine ⟨fun hw hr ha => ⟨hostMemStore a b s, hostAccess_memStore ha hr b, rfl, ?_, fun c hc => ?_⟩,
    fun ha => ⟨hostAccess_memStore_fault ha b, hostAccess_memLoad_fault ha⟩⟩
  · exact Memory.read_write_same hw a b
  · exact Memory.read_write_ne hw b hc.symm

/-- Settles O60: what each load records, and that the host's turn is its next access. -/
theorem hostLoadsChangeNothing : Obligations.HostLoadsChangeNothing := by
  intro s
  refine ⟨fun off halign hwindow => hostAccess_load halign hwindow s, fun a ha hdst => ?_, fun a ha hdst => ?_,
    hostAccess_wait_idle, hostAccess_wait_busy, fun o rest => step_of_nextAgent_host⟩
  · rw [hostAccess_memLoad ha, hostMemLoad, hostSees_of_not_dst hdst, hdst]
    rfl
  · refine ⟨hostSees s a, ?_⟩
    rw [hostAccess_memLoad ha, hostMemLoad, hdst]
    rfl

end Sys2Proof.Machine
end

section
/-! PROOFS. Memory: the engine always has a step, and writes at most one byte of its destination in it
(20_memory.md R81, R82, R99, 41_dither.md R184). -/

namespace Sys2Proof.Machine

/-- Settles O50: a running command in good order has a step by `body_progress`, an idle engine stays. -/
theorem theEngineNeverStops : Obligations.TheEngineNeverStops := by
  intro s hs
  by_cases hb : s.busy = true
  · obtain ⟨i, hi⟩ := hs.run hb
    obtain ⟨t, ht, -⟩ := body_progress hi
    exact ⟨t, (engineStep_eq hb hi.word hi.fits).trans ht⟩
  · exact ⟨s, engineStep_idle (by simpa using hb)⟩

/-! The steps that leave data memory as it is. -/

section steps
variable (s : State)

@[simp] theorem listStep_mem (after : PState) (todo : List PanelStep) : (listStep after todo s).mem = s.mem := by
  unfold listStep
  split <;> rfl

@[simp] theorem pollStep_mem (todo : List PanelStep) : (pollStep todo s).mem = s.mem := by
  unfold pollStep
  split <;> exact readBusyLine_mem s

@[simp] theorem polledStep_mem (todo : List PanelStep) : (polledStep todo s).mem = s.mem := by
  unfold polledStep
  split <;> rfl

@[simp] theorem headerStep_mem (frames : List BusEvent) (k : Nat) : (headerStep frames k s).mem = s.mem := by
  unfold headerStep
  split <;> rfl

@[simp] theorem dataStep_mem (n : Nat) (byte : Nat → Byte) (k : Nat) : (dataStep n byte k s).mem = s.mem := by
  unfold dataStep
  split <;> rfl

@[simp] theorem bufferCheckStep_mem (k : Nat) : (bufferCheckStep k s).mem = s.mem := by
  unfold bufferCheckStep
  split
  · split <;> rfl
  · rfl

@[simp] theorem resetLineStep_mem (k : Nat) : (resetLineStep k s).mem = s.mem := by
  unfold resetLineStep
  split <;> rfl

@[simp] theorem packCheckStep_mem (k : Nat) : (packCheckStep k s).mem = s.mem := by
  unfold packCheckStep
  split
  · split <;> rfl
  · rfl

@[simp] theorem cellStep_mem (k : Nat) : (cellStep k s).mem = s.mem := by
  unfold cellStep
  split <;> rfl

@[simp] theorem tileStep_mem (k : Nat) : (tileStep k s).mem = s.mem := by
  unfold tileStep
  split <;> rfl

end steps

section writes
variable {i : Instr} {s t : State}

theorem listBody_mem {after : PState} {r : Option Nat} (h : listBody after r s = .next t) : t.mem = s.mem := by
  unfold listBody at h
  split at h <;> cases h
  · exact listStep_mem s _ _
  · exact pollStep_mem s _
  · exact polledStep_mem s _
  · rfl

theorem transferBody_mem {frames : List BusEvent} {n : Nat} {byte : Nat → Byte}
    (h : transferBody frames n byte s = .next t) : t.mem = s.mem := by
  unfold transferBody at h
  split at h
  · cases h; rfl
  · cases h; exact headerStep_mem s _ _
  · cases h; exact dataStep_mem s _ _ _
  · cases h; rfl
  · exact listBody_mem h

/-- From `s` to `t` at most one byte of data memory is written, and that in command `i`'s destination. -/
def WritesAtMostOne (i : Instr) (s t : State) : Prop :=
  t.mem = s.mem ∨ ∃ j v, j < dstLen i s.op ∧ t.mem = s.mem.write (s.op.dst + j) v

/-- One pixel of QUANTIZE writes its grid byte (41_dither.md R183). -/
theorem writes_paint (hi : isQuantize i = true) (k : Nat) (c : Code) (acc : FsAcc) :
    WritesAtMostOne i s (if k < s.op.gridBytes then { putCode k c s with fs := acc } else finishQuantize s) := by
  split
  · next hk =>
    refine .inr ⟨k, codeByte c, ?_, by rw [← gridAddr_eq]; rfl⟩
    rcases (isQuantize_iff i).1 hi with rfl | rfl | rfl | rfl | rfl <;> exact hk
  · exact .inl rfl

theorem writes_paintStep (hi : isQuantize i = true) (k : Nat) (c : Code) : WritesAtMostOne i s (paintStep k c s) :=
  writes_paint hi k c s.fs

/-- PACK's write pass writes FrameBuffer byte `k` (42_packer.md R230). -/
theorem writes_packByteStep (k : Nat) : WritesAtMostOne .pack s (packByteStep k s) := by
  unfold packByteStep
  split
  · next hk => exact .inr ⟨k, _, hk, by rw [rowMajor_eq]⟩
  · exact .inl rfl

/-- Every step of every command's body writes at most one byte. -/
theorem body_writes (h : bodyOf i s = .next t) : WritesAtMostOne i s t := by
  cases i with
  | matchRgb => cases h
  | quantizeNone =>
    simp only [bodyOf, bodyQuantizeNone] at h
    split at h <;> cases h
    exact writes_paintStep rfl _ _
  | quantizeOrdered =>
    simp only [bodyOf, bodyQuantizeOrdered] at h
    split at h <;> cases h
    exact writes_paintStep rfl _ _
  | quantizeFs =>
    simp only [bodyOf, bodyQuantizeFs] at h
    split at h <;> cases h
    · exact .inl rfl
    · exact writes_paint rfl _ _ _
  | quantizeHalftone =>
    simp only [bodyOf, bodyQuantizeHalftone] at h
    split at h <;> cases h
    · exact .inl rfl
    · exact .inl (cellStep_mem s _)
    · exact writes_paintStep rfl _ _
  | quantizePopart =>
    simp only [bodyOf, bodyQuantizePopart] at h
    split at h <;> cases h
    · exact .inl rfl
    · exact .inl (tileStep_mem s _)
    · exact writes_paintStep rfl _ _
  | pack =>
    simp only [bodyOf, bodyPack] at h
    split at h <;> cases h
    · exact .inl (packCheckStep_mem s _)
    · exact writes_packByteStep _
  | panelReset =>
    simp only [bodyOf, bodyPanelReset] at h
    split at h <;> cases h
    exact .inl (resetLineStep_mem s _)
  | panelInit | panelSleep => exact .inl (listBody_mem h)
  | panelFull =>
    simp only [bodyOf, bodyPanelFull] at h
    split at h
    · cases h; exact .inl (bufferCheckStep_mem s _)
    · exact .inl (transferBody_mem h)
  | panelPartial =>
    simp only [bodyOf, bodyPanelPartial] at h
    split at h
    · cases h; exact .inl (bufferCheckStep_mem s _)
    · exact .inl (transferBody_mem h)
  | panelBlank c => exact .inl (transferBody_mem h)

/-- Only QUANTIZE and PACK have a destination (20_memory.md R82). -/
theorem dstLen_eq_zero (hq : isQuantize i = false) (hp : i ≠ .pack) (o : Op) : dstLen i o = 0 := by
  cases i <;> first
    | rfl
    | exact absurd rfl hp
    | cases hq

/-- A command without a destination writes nothing. -/
theorem WritesAtMostOne.mem_eq (h : WritesAtMostOne i s t) (hdst : dstLen i s.op = 0) : t.mem = s.mem :=
  h.resolve_right fun ⟨j, _, hj, _⟩ => by omega

theorem inDst_of_lt {o : Op} {j : Nat} (hj : j < dstLen i o) : inDst i o (o.dst + j) = true :=
  (inRange_iff _ _ _).2 ⟨Nat.le_add_right _ _, Nat.add_lt_add_left hj _⟩

/-- Addresses that a test tells apart. -/
theorem ne_of_apply_false_true {p : Nat → Bool} {a b : Nat} (ha : p a = false) (hb : p b = true) :
    a ≠ b := fun h => by
  rw [h, hb] at ha
  cases ha

/-- Outside the destination every byte stays. -/
theorem WritesAtMostOne.read_eq (h : WritesAtMostOne i s t) (hw : Memory.wf s.mem) {a : Nat}
    (ha : inDst i s.op a = false) : t.mem.read a = s.mem.read a := by
  rcases h with hm | ⟨j, v, hj, hm⟩ <;> rw [hm]
  exact Memory.read_write_ne hw v (ne_of_apply_false_true ha (inDst_of_lt hj)).symm

end writes

/-- Settles O51: an engine step is a step of the latched command's body, which writes at most one byte. -/
theorem engineWritesOnlyItsDestination : Obligations.EngineWritesOnlyItsDestination := by
  intro s t i hw hb hd h
  rcases engineStep_next_cases h with ⟨hidle, -⟩ | ⟨-, j, hj, -, hbody⟩
  · exact absurd (hb.symm.trans hidle) nofun
  obtain rfl : i = j := by rw [hd] at hj; injection hj
  have hwrites := body_writes hbody
  exact ⟨fun hq hp => hwrites.mem_eq (dstLen_eq_zero hq hp s.op), fun a => hwrites.read_eq hw⟩

end Sys2Proof.Machine
end

section
/-! PROOFS. Memory: what a running command has read and written so far, under any interleaving of host and engine
(20_memory.md R99, R100, R101, 70_reset_and_hazards.md R362). -/

namespace Sys2Proof.Machine

theorem EngineOwnOnly.latched {s t : State} (h : EngineOwnOnly s t) :
    t.op = s.op ∧ t.par = s.par ∧ t.acceptMem = s.acceptMem := by
  rw [h]
  exact ⟨rfl, rfl, rfl⟩

/-- `RunData`'s clause for the running command `i`. -/
structure DataOk (i : Instr) (s : State) : Prop where
  source : ∀ a, inSrc i s.op a = true → s.mem.read a = s.acceptMem.read a
  dest : ∀ j, j < dstLen i s.op →
    s.mem.read (s.op.dst + j) =
      if j < written s.seq then newByte i s.op s.par.palette s.acceptMem (s.op.dst + j)
      else s.acceptMem.read (s.op.dst + j)
  work : WorkOk i s

theorem runData_iff {s : State} :
    RunData s ↔ (s.busy = true → ∀ i, decode s.op.word = .ok i → DataOk i s) :=
  ⟨fun h hb i hd => let ⟨hsrc, hdst, hwork⟩ := h hb i hd; ⟨hsrc, hdst, hwork⟩,
    fun h hb i hd => let ⟨hsrc, hdst, hwork⟩ := h hb i hd; ⟨hsrc, hdst, hwork⟩⟩

theorem RunData.of_idle {s : State} (hb : s.busy = false) : RunData s := fun h => nomatch hb.symm.trans h

/-! The host's effects. -/

/-- Nothing the host owns enters the data property. -/
theorem RunData.of_hostOwnOnly {s t : State} (hdata : RunData s) (h : HostOwnOnly s t) : RunData t := by
  rw [h]
  exact hdata

/-- A command at its first position has written nothing, and its working values are still to be set up. -/
theorem dataOk_launch (i : Instr) (s : State) : DataOk i (launch (startPosition i s.par) (latched i s)) where
  source _ _ := rfl
  dest j _ := by cases i <;> rfl
  work := by
    cases i with
    | matchRgb | quantizeNone | quantizeOrdered | panelReset | panelInit | panelFull | panelPartial | panelBlank _
    | panelSleep => trivial
    | quantizeFs => exact nofun
    | quantizeHalftone | quantizePopart => exact ⟨nofun, nofun⟩
    | pack => exact ⟨fun k hk j hj => by cases hk; exact absurd hj (Nat.not_lt_zero j), nofun⟩

/-- A word that an idle engine takes: it is over at once, or a command starts. -/
theorem RunData.of_presented {s t : State} (h : Presented s t) : RunData t := by
  rcases h with ⟨w, e, -, rfl⟩ | rfl | ⟨i, -, -, rfl⟩
  · exact .of_idle rfl
  · exact .of_idle rfl
  · refine runData_iff.2 fun _ j hj => ?_
    obtain rfl : i = j := Except.ok.inj ((decode_encode i).symm.trans hj)
    exact dataOk_launch i s

/-- A host store outside both ranges of a running command. -/
theorem DataOk.of_hostMemStore {i : Instr} {s : State} {a : Nat} (h : DataOk i s) (hw : Memory.wf s.mem)
    (hsrc : inSrc i s.op a = false) (hdst : inDst i s.op a = false) (b : Byte) : DataOk i (hostMemStore a b s) where
  source c hc := by
    have hne : a ≠ c := ne_of_apply_false_true hsrc hc
    exact (Memory.read_write_ne hw b hne).trans (h.source c hc)
  dest j hj := by
    have hne : a ≠ s.op.dst + j := ne_of_apply_false_true hdst (inDst_of_lt hj)
    exact (Memory.read_write_ne hw b hne).trans (h.dest j hj)
  work := h.work

/-- The host has a store only outside both ranges of a running command (R362). -/
theorem RunData.of_hostMemStore {s : State} {a : Nat} (hdata : RunData s) (hw : Memory.wf s.mem)
    (hfree : inRunningRange s a = false) (b : Byte) : RunData (hostMemStore a b s) := by
  refine runData_iff.2 fun hb i hd => ?_
  obtain ⟨hsrc, hdst⟩ : inSrc i s.op a = false ∧ inDst i s.op a = false :=
    Bool.or_eq_false_iff.1 ((inRunningRange_running (running_busy hb hd)).symm.trans hfree)
  exact (runData_iff.1 hdata hb i hd).of_hostMemStore hw hsrc hdst b

/-! What modes Halftone and PopArt have gathered (41_dither.md R200, R210). -/

section gathered
variable {α : Type} {q : Seq} {count k : Nat} {f : Nat → α} {vals : List α}

/-- `vals` holds the values `f` of the cells or tiles gathered before position `q`, of `count` in all. -/
def Gathered (q : Seq) (count : Nat) (f : Nat → α) (vals : List α) : Prop :=
  (∀ k, q = .tally k → k ≤ count ∧ vals = (List.range k).map f) ∧
    (∀ k, q = .pixel k → vals = (List.range count).map f)

theorem gathered_none (count : Nat) (f : Nat → α) : Gathered (.tally 0) count f [] :=
  ⟨fun k hk => by cases hk; exact ⟨Nat.zero_le _, rfl⟩, nofun⟩

theorem gathered_next (f : Nat → α) (hk : k < count) :
    Gathered (.tally (k + 1)) count f ((List.range (k + 1)).map f) :=
  ⟨fun n hn => by cases hn; exact ⟨hk, rfl⟩, nofun⟩

theorem Gathered.toPixels (h : Gathered q count f vals) (hq : q = .tally k) (hk : ¬ k < count) :
    Gathered (.pixel 0) count f vals := by
  obtain ⟨hle, hvals⟩ := h.1 k hq
  exact ⟨nofun, fun _ _ => by rw [hvals, Nat.le_antisymm hle (Nat.le_of_not_lt hk)]⟩

theorem Gathered.nextPixel (h : Gathered q count f vals) (hq : q = .pixel k) :
    Gathered (.pixel (k + 1)) count f vals :=
  ⟨nofun, fun _ _ => h.2 k hq⟩

theorem workOk_halftone {s : State} : WorkOk .quantizeHalftone s ↔
    Gathered s.seq (blockCount 4 s.op.imgW s.op.imgH) (cellSum (acceptImage s) s.op.imgW s.op.imgH) s.cellSums :=
  Iff.rfl

theorem workOk_popart {s : State} : WorkOk .quantizePopart s ↔
    Gathered s.seq (blockCount 8 s.op.imgW s.op.imgH) (votesOf s.par.palette (acceptImage s) s.op.imgW s.op.imgH)
      s.tileVotes :=
  Iff.rfl

end gathered

/-! The engine's effects. -/

section engine
variable {i : Instr} {s t : State}

/-- A step that writes nothing and moves on to a position with as many bytes written. -/
theorem DataOk.of_moved (h : DataOk i s) (hown : EngineOwnOnly s t) (hmem : t.mem = s.mem)
    (hwritten : 0 < dstLen i s.op → written t.seq = written s.seq) (hwork : WorkOk i t) : DataOk i t := by
  obtain ⟨hop, hpar, hacc⟩ := hown.latched
  refine ⟨?_, ?_, hwork⟩ <;> rw [hop, hmem, hacc]
  · exact h.source
  · intro j hj
    rw [hpar, hwritten (Nat.zero_lt_of_lt hj)]
    exact h.dest j hj

/-- A step that writes the next destination byte, its new value. -/
theorem DataOk.of_wrote {k : Nat} (h : DataOk i s) (hw : Memory.wf s.mem) (hapart : rangesOverlap i s.op = false)
    (hown : EngineOwnOnly s t) (hk : k < dstLen i s.op) (hs : written s.seq = k) (ht : written t.seq = k + 1)
    (hmem : t.mem = s.mem.write (s.op.dst + k) (newByte i s.op s.par.palette s.acceptMem (s.op.dst + k)))
    (hwork : WorkOk i t) : DataOk i t := by
  obtain ⟨hop, hpar, hacc⟩ := hown.latched
  refine ⟨?_, ?_, hwork⟩ <;> rw [hop, hmem, hacc]
  · intro a ha
    have hne : a ≠ s.op.dst + k := ne_of_apply_false_true (apart_of_not_overlap hapart ha) (inDst_of_lt hk)
    exact (Memory.read_write_ne hw _ hne.symm).trans (h.source a ha)
  · intro j hj
    rw [hpar, ht]
    by_cases hjk : j = k
    · rw [hjk, if_pos (Nat.lt_succ_self k), Memory.read_write_same hw]
    · rw [Memory.read_write_ne hw _ (by omega), h.dest j hj, hs]
      exact if_congr (by omega) rfl rfl

/-- A command without a destination and without working values: the display commands and the other panel commands. -/
theorem DataOk.of_no_dst (h : DataOk i s) (hdst : dstLen i s.op = 0) (hbody : bodyOf i s = .next t)
    (hwork : WorkOk i t) : DataOk i t :=
  h.of_moved (body_outcome hbody).engineOwnOnly ((body_writes hbody).mem_eq hdst) (fun hpos => by omega) hwork

/-! QUANTIZE (41_dither.md R180). -/

theorem DataOk.sourceKept (h : DataOk i s) (hi : isQuantize i = true) : SourceKept s :=
  sourceKept_of_read fun a hlo hhi => h.source a <| by
    rcases (isQuantize_iff i).1 hi with rfl | rfl | rfl | rfl | rfl <;> exact (inRange_iff _ _ _).2 ⟨hlo, hhi⟩

/-- Setting up leaves the working values as they are before the first cell, tile or pixel. -/
theorem DataOk.of_setup (h : DataOk i s) (hi : isQuantize i = true) (hq : s.seq = .setup)
    (hbody : bodyOf i s = .next t) : DataOk i t := by
  have hown := (body_outcome hbody).engineOwnOnly
  have hzero : 0 = written s.seq := by rw [hq]; rfl
  rcases (isQuantize_iff i).1 hi with rfl | rfl | rfl | rfl | rfl <;>
    simp only [bodyOf, bodyQuantizeNone, bodyQuantizeFs, bodyQuantizeHalftone, bodyQuantizeOrdered,
      bodyQuantizePopart, hq] at hbody <;> cases hbody
  · exact h.of_moved hown rfl (fun _ => hzero) fun k hk => by cases hk; rfl
  · exact h.of_moved hown rfl (fun _ => hzero) (workOk_halftone.2 (gathered_none _ _))
  · exact h.of_moved hown rfl (fun _ => hzero) (workOk_popart.2 (gathered_none _ _))

/-- Gathering leaves the sums or votes of the cells or tiles gathered so far (R200, R210). -/
theorem DataOk.of_tally {k : Nat} (h : DataOk i s) (hi : isQuantize i = true) (hq : s.seq = .tally k)
    (hbody : bodyOf i s = .next t) : DataOk i t := by
  have hown := (body_outcome hbody).engineOwnOnly
  have hzero : 0 = written s.seq := by rw [hq]; rfl
  have hsrc := h.sourceKept hi
  rcases (isQuantize_iff i).1 hi with rfl | rfl | rfl | rfl | rfl
  case inr.inr.inl =>
    by_cases hk : k < blockCount 4 s.op.imgW s.op.imgH
    · rw [body_cell hq hk hsrc h.work] at hbody
      cases hbody
      exact h.of_moved hown rfl (fun _ => hzero) (workOk_halftone.2 (gathered_next _ hk))
    · rw [body_tally_end (.inl ⟨rfl, rfl⟩) hq hk] at hbody
      cases hbody
      exact h.of_moved hown rfl (fun _ => hzero) (workOk_halftone.2 ((workOk_halftone.1 h.work).toPixels hq hk))
  case inr.inr.inr.inr =>
    by_cases hk : k < blockCount 8 s.op.imgW s.op.imgH
    · rw [body_tile hq hk hsrc h.work] at hbody
      cases hbody
      exact h.of_moved hown rfl (fun _ => hzero) (workOk_popart.2 (gathered_next _ hk))
    · rw [body_tally_end (.inr ⟨rfl, rfl⟩) hq hk] at hbody
      cases hbody
      exact h.of_moved hown rfl (fun _ => hzero) (workOk_popart.2 ((workOk_popart.1 h.work).toPixels hq hk))
  all_goals
    simp only [bodyOf, bodyQuantizeNone, bodyQuantizeFs, bodyQuantizeOrdered, hq, reduceCtorEq] at hbody

/-- A pixel step keeps the working values: only the accumulators move on, as R190 says. -/
theorem workOk_putCode {k : Nat} (hi : isQuantize i = true) (hq : s.seq = .pixel k) (hwork : WorkOk i s) (c : Code) :
    WorkOk i { putCode k c s with fs := fsAfter i k s } := by
  rcases (isQuantize_iff i).1 hi with rfl | rfl | rfl | rfl | rfl
  · trivial
  · intro n hn
    cases hn
    rfl
  · exact workOk_halftone.2 ((workOk_halftone.1 hwork).nextPixel hq)
  · trivial
  · exact workOk_popart.2 ((workOk_popart.1 hwork).nextPixel hq)

/-- A pixel step writes the new byte of the next destination byte, or completes the command. -/
theorem DataOk.of_pixel {k : Nat} (h : DataOk i s) (hw : Memory.wf s.mem) (hapart : rangesOverlap i s.op = false)
    (hi : isQuantize i = true) (hq : s.seq = .pixel k) (hbody : bodyOf i s = .next t) :
    t.busy = false ∨ DataOk i t := by
  have hown := (body_outcome hbody).engineOwnOnly
  by_cases hk : k < s.op.gridBytes
  · have hdst : k < dstLen i s.op := by
      rcases (isQuantize_iff i).1 hi with rfl | rfl | rfl | rfl | rfl <;> exact hk
    rw [body_pixel hi hq hk (h.sourceKept hi) h.work] at hbody
    cases hbody
    refine .inr (h.of_wrote hw hapart hown hdst (by rw [hq]; rfl) rfl ?_ (workOk_putCode hi hq h.work _))
    rw [newByte_quantize hi _ _ hk, ← gridAddr_eq]
    rfl
  · rw [body_pixel_end hi hq hk] at hbody
    cases hbody
    exact .inl rfl

/-- The positions of QUANTIZE at which it has a step. -/
theorem quantize_position (hi : isQuantize i = true) (hbody : bodyOf i s = .next t) :
    s.seq = .setup ∨ (∃ k, s.seq = .tally k) ∨ ∃ k, s.seq = .pixel k := by
  cases hq : s.seq with
  | setup => exact .inl rfl
  | tally k => exact .inr (.inl ⟨k, rfl⟩)
  | pixel k => exact .inr (.inr ⟨k, rfl⟩)
  | _ =>
    rcases (isQuantize_iff i).1 hi with rfl | rfl | rfl | rfl | rfl <;>
      simp only [bodyOf, bodyQuantizeNone, bodyQuantizeFs, bodyQuantizeHalftone, bodyQuantizeOrdered,
        bodyQuantizePopart, hq, reduceCtorEq] at hbody

theorem DataOk.of_quantize (h : DataOk i s) (hw : Memory.wf s.mem) (hapart : rangesOverlap i s.op = false)
    (hi : isQuantize i = true) (hbody : bodyOf i s = .next t) : t.busy = false ∨ DataOk i t := by
  rcases quantize_position hi hbody with hq | ⟨k, hq⟩ | ⟨k, hq⟩
  · exact .inr (h.of_setup hi hq hbody)
  · exact .inr (h.of_tally hi hq hbody)
  · exact h.of_pixel hw hapart hi hq hbody

/-! PACK (42_packer.md R230). -/

/-- The validation passes the grid bytes in order, as they were at accept. -/
theorem DataOk.of_packCheck {k : Nat} (h : DataOk .pack s) (hq : s.seq = .check k)
    (hbody : bodyOf .pack s = .next t) : t.busy = false ∨ DataOk .pack t := by
  have hown := (body_outcome hbody).engineOwnOnly
  have hpassed := h.work.1 k hq
  by_cases hk : k < s.op.gridBytes
  · have hsame : s.mem.read (s.op.src + k) = s.acceptMem.read (s.op.src + k) :=
      h.source _ ((inRange_iff _ _ _).2 ⟨Nat.le_add_right _ _, Nat.add_lt_add_left hk _⟩)
    cases hv : validByte (s.mem.read (s.op.src + k)) with
    | true =>
      rw [body_packCheck hq hk hv] at hbody
      cases hbody
      refine .inr (h.of_moved hown rfl (fun _ => by rw [hq]; rfl) ⟨fun n hn j hj => ?_, nofun⟩)
      cases hn
      rcases Nat.lt_succ_iff_lt_or_eq.1 hj with hlt | rfl
      · exact hpassed j hlt
      · exact hsame ▸ hv
    | false =>
      rw [body_packCheck_bad hq hk hv] at hbody
      cases hbody
      exact .inl rfl
  · rw [body_packCheck_end hq hk] at hbody
    cases hbody
    refine .inr (h.of_moved hown rfl (fun _ => by rw [hq]; rfl) ⟨nofun, fun _ _ => ?_⟩)
    exact (gridValid_iff _ _).2 fun j hj => hpassed j (Nat.lt_of_lt_of_le hj (Nat.le_of_not_lt hk))

/-- A packed byte of the grid as data memory holds it now is the one of the grid at accept. -/
theorem DataOk.packedByte_eq {k : Nat} (h : DataOk .pack s) (hk : k < s.op.frameBytes) :
    packedByte (gridAt s.mem s.op.src s.op.imgW) s.op.imgW (k / s.op.stride) (k % s.op.stride) =
      packedByte (gridAt s.acceptMem s.op.src s.op.imgW) s.op.imgW (k / s.op.stride) (k % s.op.stride) := by
  have hk' : k < s.op.stride * s.op.imgH := by rw [Nat.mul_comm]; exact hk
  exact packedByte_congr (column_lt hk') fun x hx => h.source _ <|
    (inRange_iff _ _ _).2 ⟨Nat.le_add_right _ _, Nat.add_lt_add_left (rowMajor_lt hx (row_lt hk')) _⟩

/-- The write pass writes the new byte of the next destination byte, or completes the command. -/
theorem DataOk.of_packByte {k : Nat} (h : DataOk .pack s) (hw : Memory.wf s.mem)
    (hapart : rangesOverlap .pack s.op = false) (hq : s.seq = .packByte k) (hbody : bodyOf .pack s = .next t) :
    t.busy = false ∨ DataOk .pack t := by
  have hown := (body_outcome hbody).engineOwnOnly
  have hvalid := h.work.2 k hq
  by_cases hk : k < s.op.frameBytes
  · rw [body_packByte hq hk] at hbody
    cases hbody
    refine .inr (h.of_wrote hw hapart hown hk (by rw [hq]; rfl) rfl ?_ ⟨nofun, fun _ _ => hvalid⟩)
    rw [newByte_pack _ hvalid hk, h.packedByte_eq hk]
  · rw [body_packByte_end hq hk] at hbody
    cases hbody
    exact .inl rfl

theorem DataOk.of_pack (h : DataOk .pack s) (hw : Memory.wf s.mem) (hapart : rangesOverlap .pack s.op = false)
    (hbody : bodyOf .pack s = .next t) : t.busy = false ∨ DataOk .pack t := by
  cases hq : s.seq with
  | check k => exact h.of_packCheck hq hbody
  | packByte k => exact h.of_packByte hw hapart hq hbody
  | _ => simp only [bodyOf, bodyPack, hq, reduceCtorEq] at hbody

/-! Every command. -/

/-- A step of a running command ends it or keeps its data property. -/
theorem DataOk.of_body (h : DataOk i s) (hw : Memory.wf s.mem) (hapart : rangesOverlap i s.op = false)
    (hbody : bodyOf i s = .next t) : t.busy = false ∨ DataOk i t := by
  cases i with
  | matchRgb => cases hbody
  | quantizeNone | quantizeFs | quantizeHalftone | quantizeOrdered | quantizePopart =>
    exact h.of_quantize hw hapart rfl hbody
  | pack => exact h.of_pack hw hapart hbody
  | panelReset | panelInit | panelFull | panelPartial | panelBlank _ | panelSleep =>
    exact .inr (h.of_no_dst rfl hbody trivial)

end engine

/-- Every engine step keeps the data property. -/
theorem RunData.of_engineStep {s t : State} (hs : Inv s) (hdata : RunData s) (h : engineStep s = .next t) :
    RunData t := by
  by_cases hb : s.busy = true
  · obtain ⟨i, hi, hbody, -⟩ := hs.progress_of_engineStep hb h
    have hop := (engineOwnOnly_of_engineStep h).latched.1
    rcases (runData_iff.1 hdata hb i hi.word).of_body hs.canonical hi.apart hbody with hend | hok
    · exact .of_idle hend
    · refine runData_iff.2 fun _ j hj => ?_
      rw [hop, hi.word] at hj
      cases hj
      exact hok
  · rw [engineStep_idle (by simpa using hb)] at h
    cases h
    exact hdata

/-- Settles O48: each effect a step can have keeps the data property. -/
theorem everyStepKeepsTheRunData : Obligations.EveryStepKeepsTheRunData := by
  intro s t hs hdata h
  cases step_effect h with
  | hostOwn hown => exact hdata.of_hostOwnOnly hown
  | presented _ _ hword => exact .of_presented hword
  | memStore b hown _ hfree =>
    exact (hdata.of_hostOwnOnly hown).of_hostMemStore (hs.of_hostOwnOnly hown).canonical hfree b
  | engineReset => exact .of_idle rfl
  | engine _ hstep =>
    have hown := hostOwnOnly_takeTurn s
    exact .of_engineStep (hs.of_hostOwnOnly hown) (hdata.of_hostOwnOnly hown) hstep

end Sys2Proof.Machine
end

section
/-! PROOFS. Encoding: which words are commands, which are decode errors, and what an illegal word does at accept
(30_encoding.md R120 to R129, 60_exceptions.md R313). -/

namespace Sys2Proof

/-! The decode rule's three outcomes (R121). -/

/-- R121's tests for BAD_COMMAND. -/
def BadCommand (w : Word) : Prop :=
  w.extractLsb' 7 1 ≠ 0#1 ∨ w.extractLsb' 11 21 ≠ 0#21 ∨ (opcField w).toNat = 0 ∨ 10 ≤ (opcField w).toNat ∨
    ((opcField w).toNat ≠ 2 ∧ (modeField w).toNat ≠ 0) ∨ ((opcField w).toNat ≠ 8 ∧ (codeField w).toNat ≠ 0)

/-- R121's test for BAD_MODE. -/
def BadMode (w : Word) : Prop := (opcField w).toNat = 2 ∧ 5 ≤ (modeField w).toNat

/-- What a word's fields keep to when it passes every test for BAD_COMMAND. -/
structure FieldsLegal (w : Word) : Prop where
  reservedBit : (w.extractLsb' 7 1).toNat = 0
  reservedHigh : (w.extractLsb' 11 21).toNat = 0
  opc : 1 ≤ (opcField w).toNat ∧ (opcField w).toNat ≤ 9
  mode : (opcField w).toNat ≠ 2 → (modeField w).toNat = 0
  code : (opcField w).toNat ≠ 8 → (codeField w).toNat = 0

theorem not_badCommand_iff {w : Word} : ¬ BadCommand w ↔ FieldsLegal w := by
  have hbit : w.extractLsb' 7 1 = 0#1 ↔ (w.extractLsb' 7 1).toNat = 0 := BitVec.toNat_inj.symm
  have hhigh : w.extractLsb' 11 21 = 0#21 ↔ (w.extractLsb' 11 21).toNat = 0 := BitVec.toNat_inj.symm
  rw [BadCommand, Ne, Ne, hbit, hhigh]
  constructor
  · intro h
    constructor <;> omega
  · rintro ⟨_, _, _, _, _⟩
    omega

theorem decode_of_fieldsLegal {w : Word} (h : FieldsLegal w) :
    decode w = decodeOpc (opcField w) (modeField w) (codeField w) := by
  rw [decode_eq, if_neg, if_neg, if_neg, if_neg]
  · exact fun hstray => hstray.2 (h.code hstray.1)
  · exact fun hstray => hstray.2 (h.mode hstray.1)
  · exact not_not_intro h.opc
  · exact not_not_intro ⟨h.reservedBit, h.reservedHigh⟩

theorem decode_of_badCommand {w : Word} (h : BadCommand w) : decode w = .error .badCommand := by
  rw [decode_eq]
  split_ifs with hres hopc hmode hcode
  case neg =>
    exact absurd h (not_badCommand_iff.2
      ⟨hres.1, hres.2, hopc, fun hne => not_not.1 (not_and.1 hmode hne), fun hne => not_not.1 (not_and.1 hcode hne)⟩)
  all_goals rfl

/-- R127: the modes 5, 6 and 7 are the illegal ones. -/
theorem decodeMode_badMode {m : BitVec 3} (h : 5 ≤ m.toNat) : decodeMode m = .error .badMode := by
  revert m; decide

theorem decodeMode_ok {m : BitVec 3} (h : m.toNat < 5) : ∃ i, decodeMode m = .ok i := by
  rw [decodeMode_eq]
  split_ifs
  case neg => omega
  all_goals exact ⟨_, rfl⟩

/-- R122: a defined opcode selects a command, QUANTIZE by its mode. -/
theorem decodeOpc_ok {o : BitVec 4} {m : BitVec 3} (c : Code) (ho : 1 ≤ o.toNat ∧ o.toNat ≤ 9)
    (hm : o.toNat = 2 → m.toNat < 5) : ∃ i, decodeOpc o m c = .ok i := by
  unfold decodeOpc
  split
  case h_2 => exact decodeMode_ok (hm ‹_›)
  case h_10 => grind
  all_goals exact ⟨_, rfl⟩

theorem decode_of_badMode {w : Word} (hc : ¬ BadCommand w) (hm : BadMode w) : decode w = .error .badMode := by
  rw [decode_of_fieldsLegal (not_badCommand_iff.1 hc), decodeOpc, hm.1]
  exact decodeMode_badMode hm.2

theorem decode_of_legal {w : Word} (hc : ¬ BadCommand w) (hm : ¬ BadMode w) : ∃ i, decode w = .ok i := by
  have hlegal := not_badCommand_iff.1 hc
  rw [decode_of_fieldsLegal hlegal]
  exact decodeOpc_ok _ hlegal.opc fun ho => not_le.1 fun hle => hm ⟨ho, hle⟩

/-- A word that decodes to a command passes every test for BAD_COMMAND. -/
theorem fieldsLegal_of_decode {w : Word} {i : Instr} (h : decode w = .ok i) : FieldsLegal w :=
  not_badCommand_iff.1 fun hbad => by rw [decode_of_badCommand hbad] at h; cases h

/-! Decode and encode are inverse (R123). -/

/-- A legal word is determined by its opcode, its mode and its code. -/
theorem word_eq_of_fields {v w : Word} (hv : FieldsLegal v) (hw : FieldsLegal w) (hopc : opcField v = opcField w)
    (hmode : modeField v = modeField w) (hcode : codeField v = codeField w) : v = w := by
  apply BitVec.eq_of_toNat_eq
  rw [word_toNat_fields v, word_toNat_fields w, hv.reservedBit, hv.reservedHigh, hw.reservedBit, hw.reservedHigh, hopc,
    hmode, hcode]

/-- The mode of a QUANTIZE command is that of its word. -/
theorem fields_of_decodeMode {m : BitVec 3} {i : Instr} (h : decodeMode m = .ok i) :
    opcField (encode i) = 2 ∧ modeField (encode i) = m ∧ codeField (encode i) = 0 := by
  unfold decodeMode at h
  split at h
  case h_6 => cases h
  all_goals
    next hmode =>
    cases h
    rw [← BitVec.toNat_inj (x := modeField _), hmode]
    decide

theorem fields_panelBlank (c : Code) : opcField (encode (.panelBlank c)) = 8 ∧
    modeField (encode (.panelBlank c)) = 0 ∧ codeField (encode (.panelBlank c)) = c := by
  revert c; decide

/-- Fields that select a command are those of its word. -/
theorem fields_of_decodeOpc {o : BitVec 4} {m : BitVec 3} {c : Code} {i : Instr} (h : decodeOpc o m c = .ok i)
    (hm : o.toNat ≠ 2 → m.toNat = 0) (hc : o.toNat ≠ 8 → c.toNat = 0) :
    opcField (encode i) = o ∧ modeField (encode i) = m ∧ codeField (encode i) = c := by
  simp only [← BitVec.toNat_inj]
  unfold decodeOpc at h
  split at h
  case h_2 ho =>
    obtain ⟨hopc, hmode, hcode⟩ := fields_of_decodeMode h
    rw [hopc, hmode, hcode, ho, hc (by omega)]
    exact ⟨rfl, rfl, rfl⟩
  case h_8 ho =>
    cases h
    obtain ⟨hopc, hmode, hcode⟩ := fields_panelBlank c
    rw [hopc, hmode, hcode, ho, hm (by omega)]
    exact ⟨rfl, rfl, rfl⟩
  case h_10 => cases h
  all_goals
    next ho =>
    cases h
    rw [ho, hm (by omega), hc (by omega)]
    decide

/-- A command's word is the only one that decodes to it. -/
theorem decode_eq_ok_iff {w : Word} {i : Instr} : decode w = .ok i ↔ w = encode i := by
  refine ⟨fun h => ?_, fun h => h ▸ decode_encode i⟩
  have hlegal := fieldsLegal_of_decode h
  rw [decode_of_fieldsLegal hlegal] at h
  obtain ⟨hopc, hmode, hcode⟩ := fields_of_decodeOpc h hlegal.mode hlegal.code
  exact word_eq_of_fields hlegal (fieldsLegal_of_decode (decode_encode i)) hopc.symm hmode.symm hcode.symm

/-- Settles O2: a word that decodes to `i` has the fields of `i`'s word, and they determine it. -/
theorem decodeAndEncodeAgree : Obligations.DecodeAndEncodeAgree :=
  fun _ _ _ => decode_eq_ok_iff

/-- The blank row's mask leaves out CODE, bits 10:8. -/
theorem blankMask_getElem {i : Nat} (hi : i < 32) : (0xFFFFF8FF#32)[i] = decide (i < 8 ∨ 11 ≤ i) := by
  revert i
  decide

/-- A word is its bits outside CODE together with its CODE field. -/
theorem word_eq_fixedBits_or_code (w : Word) :
    w = (w &&& 0xFFFFF8FF#32) ||| ((codeField w).zeroExtend 32 <<< 8) := by
  ext i hi
  rw [BitVec.getElem_or, BitVec.getElem_and, blankMask_getElem, BitVec.getElem_shiftLeft, codeField]
  by_cases hlow : i < 8
  · simp [hlow]
  by_cases hhigh : 11 ≤ i
  · have hpast : ¬ i - 8 < 3 := by omega
    simp [hlow, hhigh, hpast]
  · have hin : i - 8 < 3 := by omega
    have hbit : 8 + (i - 8) = i := by omega
    simp [hlow, hhigh, hin, hbit, BitVec.getLsbD_eq_getElem hi]

/-- The word family of PANEL_DRAW_BLANK (R123, R128): its fixed bits and its CODE field. -/
theorem eq_encode_panelBlank_iff {w : Word} {c : Code} :
    w = encode (.panelBlank c) ↔ w &&& 0xFFFFF8FF#32 = 0x00000008#32 ∧ w.extractLsb' 8 3 = c := by
  constructor
  · rintro rfl
    revert c
    decide
  · rintro ⟨hfixed, hcode⟩
    rw [word_eq_fixedBits_or_code w, hfixed, codeField, hcode, encode]

/-- Settles O1: each row of the table is `decode_eq_ok_iff` at its command. -/
theorem decodeSelectsExactlyTheTableWords : Obligations.DecodeSelectsExactlyTheTableWords :=
  ⟨fun _ => decode_eq_ok_iff, fun _ => decode_eq_ok_iff, fun _ => decode_eq_ok_iff, fun _ => decode_eq_ok_iff,
    fun _ => decode_eq_ok_iff, fun _ => decode_eq_ok_iff, fun _ => decode_eq_ok_iff, fun _ => decode_eq_ok_iff,
    fun _ => decode_eq_ok_iff, fun _ => decode_eq_ok_iff, fun _ => decode_eq_ok_iff,
    fun _ _ => decode_eq_ok_iff.trans eq_encode_panelBlank_iff, fun _ => decode_eq_ok_iff,
    decode_encode (.panelBlank 1)⟩

/-- Settles O3: the three outcomes of decode, and each excludes the others. -/
theorem illegalWordsAreNamedByTheDecodeRule : Obligations.IllegalWordsAreNamedByTheDecodeRule := by
  intro w
  show (decode w = .error .badCommand ↔ BadCommand w) ∧ (decode w = .error .badMode ↔ ¬ BadCommand w ∧ BadMode w) ∧
    ((∃ i, decode w = .ok i) ↔ ¬ BadCommand w ∧ ¬ BadMode w)
  by_cases hc : BadCommand w
  · simp [decode_of_badCommand hc, hc]
  by_cases hm : BadMode w
  · simp [decode_of_badMode hc hm, hc, hm]
  · obtain ⟨i, hi⟩ := decode_of_legal hc hm
    simp [hi, hc, hm]

/-- Settles O5: the decoder evaluates on the sample. -/
theorem sampleWordsDecode : Obligations.SampleWordsDecode := by
  unfold Obligations.SampleWordsDecode
  decide

end Sys2Proof

namespace Sys2Proof.Machine

/-- The error code that has a decode error's name (R121). -/
def errCodeOf : DecodeError → ErrCode
  | .badCommand => .badCommand
  | .badMode => .badMode

theorem rejectWord_idle (w : Word) (e : DecodeError) {s : State} (hb : s.busy = false) :
    rejectWord w e s = raise (errCodeOf e) (latch w (clearFlags s)) := by
  rw [rejectWord, present_idle hb]
  cases e <;> rfl

/-- An illegal word stored on an idle engine takes the error that has its name. -/
theorem writeCmd_illegal {w : Word} {e : DecodeError} {s : State} (hb : s.busy = false) (h : decode w = .error e) :
    ∃ t, writeCmd w s = .next t ∧ RejectedAs (errCodeOf e) s t :=
  ⟨_, by rw [writeCmd_error h, rejectWord_idle w e hb], rejectedAs_raise w (errCodeOf e) s⟩

/-- Settles O4: by the outcome of decode, and the frame of an error at accept. -/
theorem illegalWordEndsInInputError : Obligations.IllegalWordEndsInInputError := by
  intro s w hb
  show (BadCommand w → ∃ t, writeCmd w s = .next t ∧ RejectedAs .badCommand s t) ∧
    (¬ BadCommand w → BadMode w → ∃ t, writeCmd w s = .next t ∧ RejectedAs .badMode s t) ∧
    (¬ BadCommand w → ¬ BadMode w → ∃ i, decode w = .ok i ∧ writeCmd w s = exec i s)
  refine ⟨fun hc => writeCmd_illegal hb (decode_of_badCommand hc),
    fun hc hm => writeCmd_illegal hb (decode_of_badMode hc hm), fun hc hm => ?_⟩
  obtain ⟨i, hi⟩ := decode_of_legal hc hm
  exact ⟨i, hi, writeCmd_ok hi s⟩

end Sys2Proof.Machine
end

section
/-! PROOFS. Palette: the entry `match` returns and how far it can be, and what MATCH leaves (40_palette.md R161,
R162, R166). -/

namespace Sys2Proof.Machine

/-! The matcher (R161, R162). -/

/-- A channel is at most 255 away from an entry's. -/
theorem sq_sub_byte_le {v : Int} (hv : 0 ≤ v ∧ v ≤ 255) (b : Byte) : (v - (b.toNat : Int)) ^ 2 ≤ 65025 := by
  have hb := b.isLt
  have hsq : (v - (b.toNat : Int)) ^ 2 ≤ 255 ^ 2 := sq_le_sq' (by omega) (by omega)
  omega

theorem inkDist_nonneg (pal : Palette) (c : Chans Int) (i : Ink) : 0 ≤ inkDist pal c i :=
  add_nonneg (add_nonneg (sq_nonneg _) (sq_nonneg _)) (sq_nonneg _)

/-- The distance's range is three times that of one channel (R161). -/
theorem inkDist_le {c : Chans Int} (hr : 0 ≤ c.r ∧ c.r ≤ 255) (hg : 0 ≤ c.g ∧ c.g ≤ 255) (hb : 0 ≤ c.b ∧ c.b ≤ 255)
    (pal : Palette) (i : Ink) : inkDist pal c i ≤ 195075 :=
  add_le_add (add_le_add (sq_sub_byte_le hr (inkGet pal i).r) (sq_sub_byte_le hg (inkGet pal i).g))
    (sq_sub_byte_le hb (inkGet pal i).b)

/-- Settles O18: the comparison loop finds the first least entry, and three squares of bytes' differences bound the
distance. -/
theorem nearestIsTheFirstMinimum : Obligations.NearestIsTheFirstMinimum := by
  intro pal c i entry index dist
  have hdist : dist = inkDist pal c := by
    funext j
    cases j <;> rfl
  have hindex : index = inkIndex := by
    funext j
    cases j <;> rfl
  rw [hdist, hindex]
  exact ⟨nearest_eq_iff pal c i, fun hr hg hb => ⟨inkDist_nonneg pal c i, inkDist_le hr hg hb pal i⟩⟩

/-! MATCH (R166). -/

/-- MATCH on its latched operands ends in the accept step and changes only STATUS and RESULT. -/
theorem doneInMemory_performMatch (s : State) :
    DoneInMemory ((inkCode (nearest s.par.palette (chanInt (liveOp s).rgb))).zeroExtend 32) s
      (performMatch (latched .matchRgb s)) := by
  rw [BitVec.zeroExtend, ← BitVec.ofNat_toNat]
  rfl

/-- Settles O17: MATCH has no check after the decode, so an idle engine performs it at once. -/
theorem matchPutsTheNearestCodeInResult : Obligations.MatchPutsTheNearestCodeInResult :=
  ⟨fun s hidle => ⟨_, exec_started hidle trivial, doneInMemory_performMatch s, rfl⟩, rfl, rfl, rfl, rfl, rfl, rfl⟩

end Sys2Proof.Machine
end

section
/-! PROOFS. Dither: what the code of a pixel is, what it depends on, and the period of the block modes (41_dither.md
R181, R200, R203, R214, R215). -/

namespace Sys2Proof.Machine

/-! What a code depends on (R214). -/

/-- Images that agree inside W × H get the same codes. -/
theorem modeCode_congr {w h k : Nat} {a b : Nat → Nat → Chans Nat} (hab : ImagesAgree w h a b) (i : Instr)
    (pal : Palette) (hk : k < w * h) : modeCode i pal a w h k = modeCode i pal b w h k := by
  have hpx : a (k % w) (k / w) = b (k % w) (k / w) := hab _ _ (column_lt hk) (row_lt hk)
  cases i with
  | quantizeNone => simp only [modeCode, noneCode, hpx]
  | quantizeFs => simp only [modeCode, fsCode, hpx, fsBefore_congr hab pal hk.le]
  | quantizeHalftone => simp only [modeCode, halftoneCode, halftoneWith, noneCode, hpx, cellSum_congr hab]
  | quantizeOrdered => simp only [modeCode, orderedCode, hpx]
  | quantizePopart => simp only [modeCode, popartCode, votesOf_congr hab]
  | matchRgb | pack | panelReset | panelInit | panelFull | panelPartial | panelBlank _ | panelSleep => rfl

/-- Settles O28: the pixel itself, the accumulators, the cell sums and the votes are all made of pixels inside the
Image. -/
theorem gridDependsOnlyOnTheImage : Obligations.GridDependsOnlyOnTheImage :=
  fun i pal _ _ _ _ _ _ hab hk => modeCode_congr hab i pal hk

/-! Which codes there are (R181). -/

/-- Mode Halftone's own 0 is Black's code. -/
theorem halftoneWith_eq_inkCode (pal : Palette) (img : Nat → Nat → Chans Nat) (w h x y sum : Nat) :
    ∃ ink, halftoneWith pal img w h x y sum = inkCode ink := by
  unfold halftoneWith
  split
  · exact ⟨.black, rfl⟩
  · exact ⟨_, rfl⟩

/-- Every mode's code is a palette entry's. -/
theorem modeCode_eq_inkCode {i : Instr} (hi : isQuantize i = true) (pal : Palette) (img : Nat → Nat → Chans Nat)
    (w h k : Nat) : ∃ ink, modeCode i pal img w h k = inkCode ink := by
  rcases (isQuantize_iff i).1 hi with rfl | rfl | rfl | rfl | rfl
  · exact ⟨_, rfl⟩
  · exact ⟨_, rfl⟩
  · exact halftoneWith_eq_inkCode ..
  · exact ⟨_, rfl⟩
  · exact ⟨_, rfl⟩

/-! The dot size (R200, R203). -/

/-- Settles O29: with `q` for the average, `(4207 − 16q) div 255` and `16 − (q + 8) div 16` lie in the same linear
bounds. -/
theorem dotSizeFollowsTheTable : Obligations.DotSizeFollowsTheTable := by
  intro n sum havg
  rw [dotSize, ceilDiv]
  generalize sum / n = q at havg ⊢
  split <;> omega

/-! Periods (R215). -/

/-- A pixel moved by `p` and `q` periods of `n`. -/
def shiftPixel (n p q : Nat) (r : Nat × Nat) : Nat × Nat := (r.1 + n * p, r.2 + n * q)

/-- Block (i, j) moved by `p` and `q` blocks, where both lie inside their images. -/
theorem blockPixels_shift {n wa ha wb hb i j p q : Nat} (hwa : n * i + n ≤ wa) (hha : n * j + n ≤ ha)
    (hwb : n * (i + p) + n ≤ wb) (hhb : n * (j + q) + n ≤ hb) :
    blockPixels n wb hb (i + p) (j + q) = (blockPixels n wa ha i j).map (shiftPixel n p q) := by
  rw [blockPixels_inside hwb hhb, blockPixels_inside hwa hha]
  simp only [List.map_flatMap, List.map_map]
  have hpx : ∀ dx dy, (n * (i + p) + dx, n * (j + q) + dy) = shiftPixel n p q (n * i + dx, n * j + dy) := by
    intro dx dy
    rw [shiftPixel, Nat.mul_add, Nat.mul_add, Nat.add_right_comm, Nat.add_right_comm (n * j)]
  simp only [hpx]
  rfl

/-- The pixel (x, y)'s block lies inside both images, once moved by `p` and `q` periods of `n`. -/
structure BlockInBoth (n wa ha wb hb p q x y : Nat) : Prop where
  rightA : n * (x / n) + n ≤ wa
  bottomA : n * (y / n) + n ≤ ha
  rightB : n * ((x + n * p) / n) + n ≤ wb
  bottomB : n * ((y + n * q) / n) + n ≤ hb

theorem lt_of_block_le {n x w : Nat} (hn : 0 < n) (h : n * (x / n) + n ≤ w) : x < w :=
  Nat.lt_of_lt_of_le (Nat.lt_mul_div_succ x hn) h

section shifted
variable {n wa ha wb hb p q x y : Nat} {a b : Nat → Nat → Chans Nat}

/-- Image `b` is image `a` moved by `p` and `q` periods of `n`, where both have pixels. -/
def Shifted (n wa ha wb hb p q : Nat) (a b : Nat → Nat → Chans Nat) : Prop :=
  ∀ x y, x < wa → y < ha → x + n * p < wb → y + n * q < hb → b (x + n * p) (y + n * q) = a x y

theorem blockOf_shift (hn : 0 < n) (hin : BlockInBoth n wa ha wb hb p q x y) :
    blockOf n wb hb (blockIndex n wb (x + n * p) (y + n * q)) =
      (blockOf n wa ha (blockIndex n wa x y)).map (shiftPixel n p q) := by
  obtain ⟨hwa, hha, hwb, hhb⟩ := hin
  rw [blockOf_blockIndex _ _ hn (lt_of_block_le hn hwa), blockOf_blockIndex _ _ hn (lt_of_block_le hn hwb)]
  rw [Nat.add_mul_div_left _ _ hn] at hwb hhb ⊢
  rw [Nat.add_mul_div_left _ _ hn]
  exact blockPixels_shift hwa hha hwb hhb

/-- A pixel of the block has the same colour in both images. -/
theorem Shifted.pixel_eq (h : Shifted n wa ha wb hb p q a b) (hn : 0 < n) (hin : BlockInBoth n wa ha wb hb p q x y)
    {r : Nat × Nat} (hr : r ∈ blockOf n wa ha (blockIndex n wa x y)) :
    b (shiftPixel n p q r).1 (shiftPixel n p q r).2 = a r.1 r.2 := by
  have hmoved := List.mem_map_of_mem (f := shiftPixel n p q) hr
  rw [← blockOf_shift hn hin] at hmoved
  obtain ⟨⟨-, -, hx⟩, -, -, hy⟩ := mem_blockPixels hr
  obtain ⟨⟨-, -, hx'⟩, -, -, hy'⟩ := mem_blockPixels hmoved
  exact h _ _ hx hy hx' hy'

theorem Shifted.cellSum_eq (h : Shifted 4 wa ha wb hb p q a b) (hin : BlockInBoth 4 wa ha wb hb p q x y) :
    cellSum b wb hb (blockIndex 4 wb (x + 4 * p) (y + 4 * q)) = cellSum a wa ha (blockIndex 4 wa x y) := by
  rw [cellSum, cellSum, blockOf_shift (by decide) hin, List.map_map]
  exact congrArg List.sum (List.map_congr_left fun r hr => congrArg luminance (h.pixel_eq (by decide) hin hr))

theorem Shifted.votesOf_eq (h : Shifted 8 wa ha wb hb p q a b) (hin : BlockInBoth 8 wa ha wb hb p q x y)
    (pal : Palette) :
    votesOf pal b wb hb (blockIndex 8 wb (x + 8 * p) (y + 8 * q)) = votesOf pal a wa ha (blockIndex 8 wa x y) := by
  rw [votesOf, votesOf, blockOf_shift (by decide) hin, List.foldl_map]
  exact foldl_congr_mem (fun v r hr => by rw [h.pixel_eq (by decide) hin hr]) _

theorem Shifted.orderedCode_eq (h : Shifted 4 wa ha wb hb p q a b) (hx : x < wa) (hy : y < ha) (hx' : x + 4 * p < wb)
    (hy' : y + 4 * q < hb) (pal : Palette) :
    orderedCode pal b (x + 4 * p) (y + 4 * q) = orderedCode pal a x y := by
  simp only [orderedCode, orderedOffset, Nat.add_mul_mod_self_left, h x y hx hy hx' hy']

theorem Shifted.halftoneCode_eq (h : Shifted 4 wa ha wb hb p q a b) (hin : BlockInBoth 4 wa ha wb hb p q x y)
    (pal : Palette) : halftoneCode pal b wb hb (x + 4 * p) (y + 4 * q) = halftoneCode pal a wa ha x y := by
  have hpx : b (x + 4 * p) (y + 4 * q) = a x y :=
    h x y (lt_of_block_le (by decide) hin.rightA) (lt_of_block_le (by decide) hin.bottomA)
      (lt_of_block_le (by decide) hin.rightB) (lt_of_block_le (by decide) hin.bottomB)
  simp only [halftoneCode, halftoneWith, noneCode, h.cellSum_eq hin, hpx, blockOf_shift (by decide) hin,
    List.length_map, Nat.add_mul_mod_self_left]

theorem Shifted.popartCode_eq (h : Shifted 8 wa ha wb hb p q a b) (hin : BlockInBoth 8 wa ha wb hb p q x y)
    (pal : Palette) : popartCode pal b wb hb (x + 8 * p) (y + 8 * q) = popartCode pal a wa ha x y := by
  rw [popartCode, popartCode, h.votesOf_eq hin]

end shifted

/-- Settles O30: a matrix entry depends on the coordinates modulo 4, and a block moved by whole blocks holds the moved
pixels. -/
theorem modesArePeriodic : Obligations.ModesArePeriodic := by
  intro pal a b wa ha wb hb p q x y shifted blockInside
  have block : ∀ {n}, blockInside n → BlockInBoth n wa ha wb hb p q x y :=
    fun ⟨hwa, hha, hwb, hhb⟩ => ⟨hwa, hha, hwb, hhb⟩
  have moved : ∀ {n}, shifted n → Shifted n wa ha wb hb p q a b := fun h => h
  exact ⟨fun h hx hy hx' hy' => (moved h).orderedCode_eq hx hy hx' hy' pal,
    fun h hin => (moved h).halftoneCode_eq (block hin) pal, fun h hin => (moved h).popartCode_eq (block hin) pal⟩

end Sys2Proof.Machine
end

section
/-! PROOFS. Dither: the Floyd-Steinberg accumulators, channel by channel: one step of the recurrence and the bound on
every element (41_dither.md R190, R192, R193). -/

namespace Sys2Proof.Machine

/-! Triples by channel. -/

@[simp] theorem channel_chanZip {α β γ : Type} (f : α → β → γ) (s : Chans α) (t : Chans β) (c : Channel) :
    channel (chanZip f s t) c = f (channel s c) (channel t c) := by
  cases c <;> rfl

@[simp] theorem channel_fsZero_cur (w : Nat) (c : Channel) : channel (fsZero w).cur c = zeroRow w := by
  cases c <;> rfl

@[simp] theorem channel_fsZero_nxt (w : Nat) (c : Channel) : channel (fsZero w).nxt c = zeroRow w := by
  cases c <;> rfl

@[simp] theorem channel_fsNextRow_nxt (w : Nat) (acc : FsAcc) (c : Channel) :
    channel (fsNextRow w acc).nxt c = zeroRow w := by
  cases c <;> rfl

@[simp] theorem fsNextRow_cur (w : Nat) (acc : FsAcc) : (fsNextRow w acc).cur = acc.nxt := rfl

@[simp] theorem channel_fsSpread_cur (acc : FsAcc) (x : Nat) (e : Chans Int) (c : Channel) :
    channel (fsSpread acc x e).cur c = addAt (channel acc.cur c) (x + 2) (7 * channel e c) :=
  channel_chanZip ..

@[simp] theorem channel_fsSpread_nxt (acc : FsAcc) (x : Nat) (e : Chans Int) (c : Channel) :
    channel (fsSpread acc x e).nxt c =
      addAt (addAt (addAt (channel acc.nxt c) x (3 * channel e c)) (x + 1) (5 * channel e c)) (x + 2)
        (1 * channel e c) :=
  channel_chanZip ..

theorem channel_fsError_range (pal : Palette) (o : Chans Nat) (acc : FsAcc) (x : Nat) (c : Channel) :
    |channel (fsError pal o acc x) c| ≤ 255 := by
  obtain ⟨hr, hg, hb⟩ := fsError_range pal o acc x
  cases c
  · exact abs_le.2 hr
  · exact abs_le.2 hg
  · exact abs_le.2 hb

/-! The step of the recurrence (R190). -/

/-- Adding to an element the row has. -/
theorem accAt_addAt_of_lt {l : List Int} {k : Nat} (hk : k < l.length) (d : Int) (j : Nat) :
    accAt (addAt l k d) j = accAt l j + if j = k then d else 0 := by
  rw [accAt_addAt]
  simp [hk]

/-- What one pixel does to the accumulators: the error is sent on, and a row's end moves on to the next row. -/
theorem fsStep_eq (pal : Palette) (w k : Nat) (o : Chans Nat) (acc : FsAcc) :
    fsStep pal w k o acc =
      if k % w + 1 = w then fsNextRow w (fsSpread acc (k % w) (fsError pal o acc (k % w)))
      else fsSpread acc (k % w) (fsError pal o acc (k % w)) := rfl

/-- Column `k mod W` of the pixel after `k`. -/
theorem succ_mod_eq (w k : Nat) : (k + 1) % w = if k % w + 1 = w then 0 else k % w + 1 := by
  rw [← Nat.mod_add_mod]
  split
  · next hend => rw [hend, Nat.mod_self]
  · next hend =>
    rcases Nat.eq_zero_or_pos w with rfl | hw
    · exact Nat.mod_zero _
    · have := Nat.mod_lt k hw
      exact Nat.mod_eq_of_lt (by omega)

/-! The bound (R192, R193). -/

/-- Element `j` of an accumulator row is at most `weight j` times the largest error. -/
def RowWithin (weight : Nat → Int) (row : List Int) : Prop := ∀ j, |accAt row j| ≤ 255 * weight j

theorem rowWithin_zeroRow (w : Nat) {weight : Nat → Int} (hpos : ∀ j, 0 ≤ weight j) : RowWithin weight (zeroRow w) := by
  intro j
  have := hpos j
  rw [accAt_zeroRow, abs_zero]
  omega

theorem RowWithin.mono {weight weight' : Nat → Int} {row : List Int} (h : RowWithin weight row)
    (hle : ∀ j, weight j ≤ weight' j) : RowWithin weight' row := by
  intro j
  have := h j
  have := hle j
  omega

/-- An error sent on with factor `n` adds `n` to one element's weight. -/
theorem RowWithin.addAt {weight : Nat → Int} {row : List Int} (h : RowWithin weight row) {e n : Int} (he : |e| ≤ 255)
    (hn : 0 ≤ n) (k : Nat) : RowWithin (fun j => weight j + if j = k then n else 0) (addAt row k (n * e)) := by
  intro j
  have hold := h j
  have hmul : |n * e| ≤ 255 * n := by
    rw [abs_mul, abs_of_nonneg hn, mul_comm]
    exact mul_le_mul_of_nonneg_right he hn
  have habs := abs_add_le (accAt row j) (n * e)
  rw [accAt_addAt]
  dsimp only
  split_ifs <;> grind

/-- Sixteenths of an error the current row can hold before the pixel in column `x`: all 16 once the pixel on the left
has sent its 7, and the 9 of the row above until then. -/
def curWeight (x j : Nat) : Int := if j ≤ x + 1 then 16 else 9

/-- Sixteenths of an error the next row can hold before the pixel in column `x`. -/
def nxtWeight (x j : Nat) : Int := if j < x then 9 else if j = x then 6 else if j = x + 1 then 1 else 0

/-- The accumulators before the pixel in column `x` of an image `w` wide. -/
structure FsBounded (w x : Nat) (acc : FsAcc) : Prop where
  curLength : ∀ c, (channel acc.cur c).length = w + 2
  nxtLength : ∀ c, (channel acc.nxt c).length = w + 2
  cur : ∀ c, RowWithin (curWeight x) (channel acc.cur c)
  nxt : ∀ c, RowWithin (nxtWeight x) (channel acc.nxt c)

theorem fsBounded_fsZero (w : Nat) : FsBounded w 0 (fsZero w) where
  curLength c := by simp
  nxtLength c := by simp
  cur c := by
    rw [channel_fsZero_cur]
    exact rowWithin_zeroRow w fun j => by unfold curWeight; split <;> decide
  nxt c := by
    rw [channel_fsZero_nxt]
    exact rowWithin_zeroRow w fun j => by unfold nxtWeight; split_ifs <;> decide

/-- The error sent on within a row. -/
theorem FsBounded.spread {w x : Nat} {acc : FsAcc} (h : FsBounded w x acc) {e : Chans Int}
    (he : ∀ c, |channel e c| ≤ 255) : FsBounded w (x + 1) (fsSpread acc x e) where
  curLength c := by simp [h.curLength]
  nxtLength c := by simp [h.nxtLength]
  cur c := by
    rw [channel_fsSpread_cur]
    refine ((h.cur c).addAt (he c) (by decide) (x + 2)).mono fun j => ?_
    simp only [curWeight]
    split_ifs <;> omega
  nxt c := by
    rw [channel_fsSpread_nxt]
    refine ((((h.nxt c).addAt (he c) (by decide) x).addAt (he c) (by decide) (x + 1)).addAt (he c) (by decide)
      (x + 2)).mono fun j => ?_
    simp only [nxtWeight]
    split_ifs <;> omega

/-- At a row's end the next row, whose elements have at most 9 sixteenths, becomes the current one. -/
theorem FsBounded.nextRow {w x : Nat} {acc : FsAcc} (h : FsBounded w x acc) : FsBounded w 0 (fsNextRow w acc) where
  curLength := h.nxtLength
  nxtLength := (fsBounded_fsZero w).nxtLength
  cur c := (h.nxt c).mono fun j => by
    simp only [curWeight, nxtWeight]
    split_ifs <;> omega
  nxt := (fsBounded_fsZero w).nxt

theorem fsBounded_fsBefore (pal : Palette) (img : Nat → Nat → Chans Nat) (w k : Nat) :
    FsBounded w (k % w) (fsBefore pal img w k) := by
  induction k with
  | zero => rw [Nat.zero_mod]; exact fsBounded_fsZero w
  | succ k ih =>
    have hspread := ih.spread (channel_fsError_range pal (img (k % w) (k / w)) (fsBefore pal img w k) (k % w))
    rw [fsBefore, fsStep_eq, succ_mod_eq]
    split
    · exact hspread.nextRow
    · exact hspread

theorem curWeight_le (x j : Nat) : curWeight x j ≤ 16 := by
  unfold curWeight
  split <;> decide

theorem nxtWeight_le (x j : Nat) : nxtWeight x j ≤ 16 := by
  unfold nxtWeight
  split_ifs <;> decide

/-- An element of a row of weights at most 16. -/
theorem RowWithin.mem {weight : Nat → Int} {row : List Int} (h : RowWithin weight row) (hle : ∀ j, weight j ≤ 16)
    {e : Int} (he : e ∈ row) : -4080 ≤ e ∧ e ≤ 4080 := by
  obtain ⟨j, hj, rfl⟩ := List.getElem_of_mem he
  have hacc : accAt row j = row[j] := List.getD_eq_getElem _ _ hj
  have hbound := h j
  rw [hacc] at hbound
  have := hle j
  exact abs_le.1 (by omega)

/-- Settles O27: an element gets at most 3 + 5 + 1 sixteenths of an error from the row above and 7 from the left. -/
theorem accumulatorsStayBounded : Obligations.AccumulatorsStayBounded := by
  intro pal img w k _ acc
  have h : FsBounded w (k % w) acc := fsBounded_fsBefore pal img w k
  have hcur : ∀ c, (channel acc.cur c).length = w + 2 ∧ ∀ e ∈ channel acc.cur c, -4080 ≤ e ∧ e ≤ 4080 :=
    fun c => ⟨h.curLength c, fun e he => (h.cur c).mem (curWeight_le _) he⟩
  have hnxt : ∀ c, (channel acc.nxt c).length = w + 2 ∧ ∀ e ∈ channel acc.nxt c, -4080 ≤ e ∧ e ≤ 4080 :=
    fun c => ⟨h.nxtLength c, fun e he => (h.nxt c).mem (nxtWeight_le _) he⟩
  simp only [List.forall_mem_cons]
  exact ⟨hcur .red, hcur .green, hcur .blue, hnxt .red, hnxt .green, hnxt .blue, nofun⟩

end Sys2Proof.Machine
end

section
/-! PROOFS. Dither: QUANTIZE at accept, and the bytes its steps write (41_dither.md R180, R181, R183, 60_exceptions.md
R313). -/

namespace Sys2Proof.Machine

section ranges
variable {i : Instr}

theorem srcLen_quantize (hi : isQuantize i = true) (o : Op) : srcLen i o = 3 * (o.imgW * o.imgH) := by
  rcases (isQuantize_iff i).1 hi with rfl | rfl | rfl | rfl | rfl <;> rfl

theorem dstLen_quantize (hi : isQuantize i = true) (o : Op) : dstLen i o = o.imgW * o.imgH := by
  rcases (isQuantize_iff i).1 hi with rfl | rfl | rfl | rfl | rfl <;> rfl

/-- Both ranges of an Image with a pixel lie in data memory (20_memory.md R95). -/
theorem rangesFit_quantize_iff (hi : isQuantize i = true) {o : Op} (hn : 0 < o.imgW * o.imgH) (size : Nat) :
    rangesFit i o size = true ↔
      ¬ (size < o.src + 3 * (o.imgW * o.imgH) ∨ size < o.dst + o.imgW * o.imgH) := by
  rw [rangesFit_iff, srcLen_quantize hi, dstLen_quantize hi]
  omega

/-- Image and IndexGrid share a byte (20_memory.md R96). -/
theorem rangesOverlap_quantize_iff (hi : isQuantize i = true) (o : Op) :
    rangesOverlap i o = true ↔ ∃ a, (o.src ≤ a ∧ a < o.src + 3 * (o.imgW * o.imgH)) ∧
      (o.dst ≤ a ∧ a < o.dst + o.imgW * o.imgH) := by
  simp only [rangesOverlap_iff, inSrc, inDst, inRange_iff, srcLen_quantize hi, dstLen_quantize hi]

theorem checksOf_quantize (hi : isQuantize i = true) (s : State) : checksOf i s = quantizeChecks i s := by
  rcases (isQuantize_iff i).1 hi with rfl | rfl | rfl | rfl | rfl <;> rfl

theorem acceptOk_quantize (hi : isQuantize i = true) {s : State} (h : QuantizeOk s) : AcceptOk i s := by
  rcases (isQuantize_iff i).1 hi with rfl | rfl | rfl | rfl | rfl <;> exact h

end ranges

/-! Accept (R180, R313). -/

/-- The first check that fails is the error QUANTIZE ends with. -/
theorem quantize_rejected {i : Instr} {s : State} {e : ErrCode} (hb : s.busy = false) (hi : isQuantize i = true)
    (h : firstFailing (quantizeChecks i (latched i s)) = some e) : ∃ t, exec i s = .next t ∧ RejectedAs e s t :=
  ⟨_, exec_rejected hb (by rw [checksOf_quantize hi, h]), rejectedAs_raise _ e s⟩

/-- QUANTIZE's checks in their order. -/
theorem firstFailing_quantizeChecks (i : Instr) (s : State) :
    firstFailing (quantizeChecks i s) =
      if s.op.imgW = 0 ∨ s.op.imgH = 0 then some .zeroDim
      else if ¬ rangesFit i s.op s.par.memSize = true then some .memRange
      else if rangesOverlap i s.op = true then some .overlap else none := by
  simp [quantizeChecks, dimCheck, rangeCheck, overlapCheck]

/-- Settles O20: the checks in their order, each in the terms of its rule. -/
theorem quantizeRejectsInOrder : Obligations.QuantizeRejectsInOrder := by
  intro s i hb hi o n beyond
  have hpos : 1 ≤ o.imgW → 1 ≤ o.imgH → 0 < n := Nat.mul_pos
  have hdim : 1 ≤ o.imgW → 1 ≤ o.imgH → ¬ (o.imgW = 0 ∨ o.imgH = 0) := by omega
  have hfit : 0 < n → (rangesFit i (latched i s).op s.par.memSize = true ↔ ¬ beyond) :=
    fun hn => rangesFit_quantize_iff hi hn s.par.memSize
  refine ⟨fun hzero => quantize_rejected hb hi ?_, fun hw hh hbeyond => quantize_rejected hb hi ?_,
    fun hw hh hwithin hshared => quantize_rejected hb hi ?_⟩ <;> rw [firstFailing_quantizeChecks]
  · exact if_pos hzero
  · exact (if_neg (hdim hw hh)).trans (if_pos ((hfit (hpos hw hh)).not.2 (not_not_intro hbeyond)))
  · exact (if_neg (hdim hw hh)).trans ((if_neg (not_not_intro ((hfit (hpos hw hh)).2 hwithin))).trans
      (if_pos ((rangesOverlap_quantize_iff hi _).2 hshared)))

/-! The bytes written (R181, R183). -/

/-- From `s` to `t` at most one byte of data memory is written, and it gets a palette code. -/
def WritesPaletteCode (s t : State) : Prop :=
  t.mem = s.mem ∨ ∃ a ink, t.mem = s.mem.write a (codeByte (inkCode ink))

section steps
variable {s t : State}

theorem writesPaletteCode_paintStep (k : Nat) {c : Code} (hc : ∃ ink, c = inkCode ink) :
    WritesPaletteCode s (paintStep k c s) := by
  obtain ⟨ink, rfl⟩ := hc
  unfold paintStep
  split
  · exact .inr ⟨_, ink, rfl⟩
  · exact .inl rfl

theorem writesPaletteCode_fsPixelStep (k : Nat) : WritesPaletteCode s (fsPixelStep k s) := by
  unfold fsPixelStep
  dsimp only
  split
  · exact .inr ⟨_, _, rfl⟩
  · exact .inl rfl

/-- Every step of a QUANTIZE body writes a palette code or nothing. -/
theorem body_writesPaletteCode {i : Instr} (hi : isQuantize i = true) (h : bodyOf i s = .next t) :
    WritesPaletteCode s t := by
  rcases (isQuantize_iff i).1 hi with rfl | rfl | rfl | rfl | rfl
  · simp only [bodyOf, bodyQuantizeNone] at h
    split at h <;> cases h
    exact writesPaletteCode_paintStep _ ⟨_, rfl⟩
  · simp only [bodyOf, bodyQuantizeFs] at h
    split at h <;> cases h
    · exact .inl rfl
    · exact writesPaletteCode_fsPixelStep _
  · simp only [bodyOf, bodyQuantizeHalftone] at h
    split at h <;> cases h
    · exact .inl rfl
    · exact .inl (cellStep_mem s _)
    · exact writesPaletteCode_paintStep _ (halftoneWith_eq_inkCode ..)
  · simp only [bodyOf, bodyQuantizeOrdered] at h
    split at h <;> cases h
    exact writesPaletteCode_paintStep _ ⟨_, rfl⟩
  · simp only [bodyOf, bodyQuantizePopart] at h
    split at h <;> cases h
    · exact .inl rfl
    · exact .inl (tileStep_mem s _)
    · exact writesPaletteCode_paintStep _ ⟨_, rfl⟩

/-- A byte that changed is the one written. -/
theorem WritesPaletteCode.read_eq (h : WritesPaletteCode s t) (hw : Memory.wf s.mem) {a : Nat}
    (ha : t.mem.read a ≠ s.mem.read a) : ∃ ink, t.mem.read a = codeByte (inkCode ink) := by
  rcases h with hmem | ⟨b, ink, hmem⟩ <;> rw [hmem] at ha ⊢
  · exact absurd rfl ha
  · rw [Memory.read_write hw] at ha ⊢
    split
    · exact ⟨ink, rfl⟩
    · next hne => exact absurd (if_neg hne) ha

end steps

/-- Settles O26: a step of the body writes at most one byte, a palette code, and every mode's code is one. -/
theorem quantizeWritesOnlyPaletteCodes : Obligations.QuantizeWritesOnlyPaletteCodes := by
  refine ⟨fun s t i hw hb hd hi h a ha => ?_, fun i o pal m a hi ha => ?_⟩
  · rcases engineStep_next_cases h with ⟨hidle, -⟩ | ⟨-, j, hj, -, hbody⟩
    · exact absurd (hb.symm.trans hidle) nofun
    obtain rfl : i = j := by rw [hd] at hj; injection hj
    obtain ⟨ink, hink⟩ := (body_writesPaletteCode hi hbody).read_eq hw ha
    rw [hink]
    exact codeByte_inkCode_mem ink
  · obtain ⟨hlo, hhi⟩ := (inRange_iff _ _ _).1 ha
    obtain ⟨j, rfl⟩ := Nat.exists_eq_add_of_le hlo
    rw [dstLen_quantize hi] at hhi
    obtain ⟨ink, hink⟩ := modeCode_eq_inkCode hi pal (pixelAt m o.src o.imgW) o.imgW o.imgH j
    rw [newByte_quantize hi pal m (Nat.lt_of_add_lt_add_left hhi), hink]
    exact codeByte_inkCode_mem ink

end Sys2Proof.Machine
end

section
/-! PROOFS. Dither: QUANTIZE from its accept to its completion (41_dither.md R180, R184). -/

namespace Sys2Proof.Machine

/-- A QUANTIZE command that has passed its checks and written nothing yet. -/
structure Begun (i : Instr) (s : State) : Prop where
  quantize : isQuantize i = true
  busy : s.busy = true
  word : decode s.op.word = .ok i
  fits : rangesFit i s.op s.par.memSize = true
  apart : rangesOverlap i s.op = false
  canonical : Memory.wf s.mem
  untouched : s.acceptMem = s.mem

/-- The state in which the accept of command `i` leaves `s`, if nothing stops it. -/
abbrev accepted (i : Instr) (s : State) : State := launch (startPosition i s.par) (latched i s)

theorem exec_quantize {i : Instr} {s : State} (hi : isQuantize i = true) (hb : s.busy = false) (h : QuantizeOk s) :
    exec i s = .next (accepted i s) := by
  rw [exec_started hb (acceptOk_quantize hi h)]
  rcases (isQuantize_iff i).1 hi with rfl | rfl | rfl | rfl | rfl <;> rfl

theorem begun_accepted {i : Instr} {s : State} (hi : isQuantize i = true) (hw : Memory.wf s.mem) (h : QuantizeOk s) :
    Begun i (accepted i s) := by
  have hpass := firstFailing_eq_none.1 (quantizeChecks_pass (w := encode i) hi h)
  have hfits := rangeCheck_passes.1 (hpass _ (List.mem_cons_of_mem _ (List.mem_cons_self ..)))
  have hapart := overlapCheck_passes.1
    (hpass _ (List.mem_cons_of_mem _ (List.mem_cons_of_mem _ (List.mem_cons_self ..))))
  exact ⟨hi, rfl, decode_encode i, hfits, hapart, hw, rfl⟩

section run
variable {i : Instr} {s : State}

/-! The pixels. -/

/-- The grid byte of pixel `k` (R183). -/
def gridByte (i : Instr) (s : State) (k : Nat) : Byte :=
  codeByte (modeCode i s.par.palette (acceptImage s) s.op.imgW s.op.imgH k)

/-- The accumulators before pixel `k`: only mode FloydSteinberg sets them. -/
def accsBefore (i : Instr) (s : State) (k : Nat) : FsAcc :=
  match i with
  | .quantizeFs => fsBefore s.par.palette (acceptImage s) s.op.imgW k
  | _ => s.fs

/-- The command after its first `k` pixels. -/
def painted (i : Instr) (s : State) (k : Nat) : State :=
  { s with seq := .pixel k, mem := fill s.mem s.op.dst (gridByte i s) k, fs := accsBefore i s k }

theorem fsAfter_painted (hi : isQuantize i = true) (s : State) (k : Nat) :
    fsAfter i k (painted i s k) = accsBefore i s (k + 1) := by
  rcases (isQuantize_iff i).1 hi with rfl | rfl | rfl | rfl | rfl <;> rfl

/-- A pixel step keeps what modes Halftone and PopArt have gathered, and each pixel finds its own accumulators. -/
theorem workOk_painted (hi : isQuantize i = true) (h : WorkOk i (painted i s 0)) (k : Nat) :
    WorkOk i (painted i s k) := by
  rcases (isQuantize_iff i).1 hi with rfl | rfl | rfl | rfl | rfl
  · trivial
  · intro n hn
    cases hn
    rfl
  · exact ⟨nofun, fun _ _ => h.2 0 rfl⟩
  · trivial
  · exact ⟨nofun, fun _ _ => h.2 0 rfl⟩

theorem Begun.sourceKept_painted (h : Begun i s) {k : Nat} (hk : k ≤ s.op.gridBytes) : SourceKept (painted i s k) := by
  refine sourceKept_of_read fun a hlo hhi => ?_
  have hsrc : inSrc i s.op a = true := by
    rw [inSrc, inRange_iff, srcLen_quantize h.quantize]
    exact ⟨hlo, hhi⟩
  have hdst : ¬ (s.op.dst ≤ a ∧ a < s.op.dst + s.op.gridBytes) := by
    have hnot := apart_of_not_overlap h.apart hsrc
    rw [inDst, dstLen_quantize h.quantize, ← Bool.not_eq_true, inRange_iff] at hnot
    exact hnot
  show (fill s.mem s.op.dst (gridByte i s) k).read a = s.acceptMem.read a
  rw [read_fill h.canonical, if_neg (by omega), h.untouched]

theorem Begun.engineStep_painted (h : Begun i s) (k : Nat) : engineStep (painted i s k) = bodyOf i (painted i s k) :=
  engineStep_eq h.busy h.word h.fits

theorem Begun.step_painted (h : Begun i s) (hwork : WorkOk i (painted i s 0)) {k : Nat} (hk : k < s.op.gridBytes) :
    engineStep (painted i s k) = .next (painted i s (k + 1)) := by
  have hbody := body_pixel (s := painted i s k) h.quantize rfl hk (h.sourceKept_painted hk.le)
    (workOk_painted h.quantize hwork k)
  rw [h.engineStep_painted, hbody, fsAfter_painted h.quantize, putCode, gridAddr_eq]
  rfl

/-- From the first pixel the command paints the grid and completes. -/
theorem Begun.run_painted (h : Begun i s) (hwork : WorkOk i (painted i s 0)) :
    engineRun (s.op.gridBytes + 1) (painted i s 0) = .next (finishQuantize (painted i s s.op.gridBytes)) := by
  refine engineRun_loop_then (painted i s) s.op.gridBytes (fun k hk => h.step_painted hwork hk) ?_
  rw [h.engineStep_painted]
  exact body_pixel_end h.quantize rfl (Nat.lt_irrefl _)

/-! Cells and tiles (R200, R210). -/

/-- Mode Halftone with the sums of its first `k` cells. -/
def withCells (s : State) (k : Nat) : State :=
  { s with cellSums := (List.range k).map (cellSum (acceptImage s) s.op.imgW s.op.imgH), seq := .tally k }

/-- Mode PopArt with the votes of its first `k` tiles. -/
def withTiles (s : State) (k : Nat) : State :=
  { s with
    tileVotes := (List.range k).map (votesOf s.par.palette (acceptImage s) s.op.imgW s.op.imgH), seq := .tally k }

theorem sourceKept_of_untouched (h : s.acceptMem = s.mem) : SourceKept s := fun x y _ _ => by
  rw [acceptImage, h, liveImage]

theorem Begun.run_cells (h : Begun .quantizeHalftone s) :
    engineRun (blockCount 4 s.op.imgW s.op.imgH + 1) (withCells s 0) =
      .next { withCells s (blockCount 4 s.op.imgW s.op.imgH) with seq := .pixel 0 } := by
  have hstep : ∀ k, engineStep (withCells s k) = bodyOf .quantizeHalftone (withCells s k) :=
    fun k => engineStep_eq h.busy h.word h.fits
  refine engineRun_loop_then (withCells s) _ (fun k hk => ?_) ?_ <;> rw [hstep]
  · exact body_cell rfl hk (sourceKept_of_untouched h.untouched)
      ⟨fun n hn => by cases hn; exact ⟨hk.le, rfl⟩, nofun⟩
  · exact body_tally_end (.inl ⟨rfl, rfl⟩) rfl (Nat.lt_irrefl _)

theorem Begun.run_tiles (h : Begun .quantizePopart s) :
    engineRun (blockCount 8 s.op.imgW s.op.imgH + 1) (withTiles s 0) =
      .next { withTiles s (blockCount 8 s.op.imgW s.op.imgH) with seq := .pixel 0 } := by
  have hstep : ∀ k, engineStep (withTiles s k) = bodyOf .quantizePopart (withTiles s k) :=
    fun k => engineStep_eq h.busy h.word h.fits
  refine engineRun_loop_then (withTiles s) _ (fun k hk => ?_) ?_ <;> rw [hstep]
  · exact body_tile rfl hk (sourceKept_of_untouched h.untouched)
      ⟨fun n hn => by cases hn; exact ⟨hk.le, rfl⟩, nofun⟩
  · exact body_tally_end (.inr ⟨rfl, rfl⟩) rfl (Nat.lt_irrefl _)

/-- Each mode comes to its first pixel with its working values set up. -/
theorem run_to_first_pixel (h : Begun i (accepted i s)) :
    ∃ n sums votes, engineRun n (accepted i s) =
        .next (painted i { accepted i s with cellSums := sums, tileVotes := votes } 0) ∧
      WorkOk i (painted i { accepted i s with cellSums := sums, tileVotes := votes } 0) := by
  have hstep : engineStep (accepted i s) = bodyOf i (accepted i s) := engineStep_eq h.busy h.word h.fits
  rcases (isQuantize_iff i).1 h.quantize with rfl | rfl | rfl | rfl | rfl
  · exact ⟨0, s.cellSums, s.tileVotes, rfl, trivial⟩
  · exact ⟨1, s.cellSums, s.tileVotes, engineRun_succ hstep, fun n hn => by cases hn; rfl⟩
  · exact ⟨_, _, _, (engineRun_succ hstep).trans h.run_cells, nofun, fun _ _ => rfl⟩
  · exact ⟨0, s.cellSums, s.tileVotes, rfl, trivial⟩
  · exact ⟨_, _, _, (engineRun_succ hstep).trans h.run_tiles, nofun, fun _ _ => rfl⟩

end run

/-- Every QUANTIZE command runs to completion, leaves the mode's codes in the grid and changes no other byte. -/
theorem quantize_fills_grid {i : Instr} (hi : isQuantize i = true) {s : State} (hb : s.busy = false)
    (hw : Memory.wf s.mem) (h : QuantizeOk s) :
    ∃ t n u, exec i s = .next t ∧ engineRun n t = .next u ∧
      DoneInMemory (BitVec.ofNat 32 ((liveOp s).imgW * (liveOp s).imgH)) s u ∧
      (∀ k, k < (liveOp s).imgW * (liveOp s).imgH → u.mem.read ((liveOp s).dst + k) =
        codeByte (modeCode i s.par.palette (pixelAt s.mem (liveOp s).src (liveOp s).imgW) (liveOp s).imgW
          (liveOp s).imgH k)) ∧
      (∀ a, a < (liveOp s).dst ∨ (liveOp s).dst + (liveOp s).imgW * (liveOp s).imgH ≤ a →
        u.mem.read a = s.mem.read a) := by
  have hbegun := begun_accepted hi hw h
  obtain ⟨m, sums, votes, hfirst, hwork⟩ := run_to_first_pixel hbegun
  have hready : Begun i { accepted i s with cellSums := sums, tileVotes := votes } := by
    obtain ⟨hq, hbusy, hword, hfits, hapart, hcanon, hmem⟩ := hbegun
    exact ⟨hq, hbusy, hword, hfits, hapart, hcanon, hmem⟩
  refine ⟨_, _, _, exec_quantize hi hb h, engineRun_trans hfirst (hready.run_painted hwork), rfl,
    fun k hk => (read_fill hw _ _ _ _).trans ?_, fun a ha => (read_fill hw _ _ _ _).trans (if_neg ?_)⟩
  · exact (if_pos ⟨Nat.le_add_right _ _, Nat.add_lt_add_left hk _⟩).trans
      (congrArg (gridByte i (accepted i s)) (Nat.add_sub_cancel_left _ _))
  · rintro ⟨hlo, hhi⟩
    exact ha.elim (Nat.not_lt_of_le hlo) (Nat.not_le_of_lt hhi)

end Sys2Proof.Machine
end

section
/-! PROOFS. Dither: the grid each QUANTIZE mode leaves (41_dither.md R185, R190, R196, R199 to R202, R210 to R212). -/

namespace Sys2Proof.Machine

section codes
variable {w x : Nat} (pal : Palette) (img : Nat → Nat → Chans Nat) (h y : Nat)

/-! The code of the pixel (x, y), which is pixel `y·W + x` in row-major order (R191). -/

theorem modeCode_none (hx : x < w) : modeCode .quantizeNone pal img w h (y * w + x) = noneCode pal img x y := by
  rw [modeCode, rowMajor_mod y hx, rowMajor_div y hx]

theorem modeCode_ordered (hx : x < w) :
    modeCode .quantizeOrdered pal img w h (y * w + x) = orderedCode pal img x y := by
  rw [modeCode, rowMajor_mod y hx, rowMajor_div y hx]

theorem modeCode_halftone (hx : x < w) :
    modeCode .quantizeHalftone pal img w h (y * w + x) = halftoneCode pal img w h x y := by
  rw [modeCode, rowMajor_mod y hx, rowMajor_div y hx]

theorem modeCode_popart (hx : x < w) :
    modeCode .quantizePopart pal img w h (y * w + x) = popartCode pal img w h x y := by
  rw [modeCode, rowMajor_mod y hx, rowMajor_div y hx]

end codes

/-- Settles O21: mode None's code is the nearest entry's. -/
theorem quantizeNoneFillsTheGrid : Obligations.QuantizeNoneFillsTheGrid := by
  intro s hb hw hok o
  obtain ⟨t, n, u, hexec, hrun, hdone, hgrid, hrest⟩ := quantize_fills_grid (i := .quantizeNone) rfl hb hw hok
  refine ⟨t, n, u, hexec, hrun, hdone, fun x y hx hy => ?_, hrest⟩
  rw [hgrid _ (rowMajor_lt hx hy), modeCode_none _ _ _ _ hx]
  rfl

/-! Mode FloydSteinberg (R190). -/

theorem clampByte_eq (v : Int) : clampByte v = max 0 (min 255 v) := by
  unfold clampByte clampInt
  split_ifs <;> omega

/-- The clamped value of one channel. -/
theorem channel_fsColour (o : Chans Nat) (acc : FsAcc) (x : Nat) (c : Channel) :
    channel (fsColour o acc x) c =
      max 0 (min 255 ((16 * ((channel o c : Nat) : Int) + accAt (channel acc.cur c) (x + 1) + 8) / 16)) := by
  rw [fsColour, channel_chanZip, fsValue, clampByte_eq, fsAdjust]

/-- The error of one channel. -/
theorem channel_fsError (pal : Palette) (o : Chans Nat) (acc : FsAcc) (x : Nat) (c : Channel) :
    channel (fsError pal o acc x) c =
      channel (fsColour o acc x) c - channel (inkRgb pal (fsInk pal o acc x)) c :=
  channel_chanZip ..

section recurrence
variable (pal : Palette) (img : Nat → Nat → Chans Nat) (w k : Nat) (c : Channel) (j : Nat)

/-- Element `j` of channel `c`'s current row before pixel `k`. -/
def fsCur : Int := accAt (channel (fsBefore pal img w k).cur c) j

/-- Element `j` of channel `c`'s next row before pixel `k`. -/
def fsNxt : Int := accAt (channel (fsBefore pal img w k).nxt c) j

/-- The entry pixel `k` is matched to. -/
def fsInkAt : Ink := fsInk pal (img (k % w) (k / w)) (fsBefore pal img w k) (k % w)

/-- The error of channel `c` at pixel `k`. -/
def fsErr : Int := channel (fsError pal (img (k % w) (k / w)) (fsBefore pal img w k) (k % w)) c

/-- The next row with the error of pixel `k` sent to it. -/
def fsBelow : Int :=
  fsNxt pal img w k c j + (if j = k % w then 3 * fsErr pal img w k c else 0) +
    (if j = k % w + 1 then 5 * fsErr pal img w k c else 0) + (if j = k % w + 2 then 1 * fsErr pal img w k c else 0)

/-- The current row with the error of pixel `k` sent to the right. -/
def fsRight : Int := fsCur pal img w k c j + if j = k % w + 2 then 7 * fsErr pal img w k c else 0

variable {w}

theorem accAt_spread_cur (hw : 0 < w) :
    accAt (channel (fsSpread (fsBefore pal img w k) (k % w)
      (fsError pal (img (k % w) (k / w)) (fsBefore pal img w k) (k % w))).cur c) j = fsRight pal img w k c j := by
  have hlen := (fsBounded_fsBefore pal img w k).curLength c
  have hx := Nat.mod_lt k hw
  rw [channel_fsSpread_cur, accAt_addAt_of_lt (by omega)]
  rfl

theorem accAt_spread_nxt (hw : 0 < w) :
    accAt (channel (fsSpread (fsBefore pal img w k) (k % w)
      (fsError pal (img (k % w) (k / w)) (fsBefore pal img w k) (k % w))).nxt c) j = fsBelow pal img w k c j := by
  have hlen := (fsBounded_fsBefore pal img w k).nxtLength c
  have hx := Nat.mod_lt k hw
  rw [channel_fsSpread_nxt, accAt_addAt_of_lt (by simp only [length_addAt]; omega),
    accAt_addAt_of_lt (by simp only [length_addAt]; omega), accAt_addAt_of_lt (by omega)]
  rfl

theorem fsCur_succ (hw : 0 < w) :
    fsCur pal img w (k + 1) c j =
      if k % w + 1 = w then fsBelow pal img w k c j else fsRight pal img w k c j := by
  rw [← accAt_spread_cur pal img k c j hw, ← accAt_spread_nxt pal img k c j hw, fsCur, fsBefore, fsStep_eq]
  split <;> rfl

theorem fsNxt_succ (hw : 0 < w) :
    fsNxt pal img w (k + 1) c j = if k % w + 1 = w then 0 else fsBelow pal img w k c j := by
  rw [← accAt_spread_nxt pal img k c j hw, fsNxt, fsBefore, fsStep_eq]
  split
  · rw [channel_fsNextRow_nxt, accAt_zeroRow]
  · rfl

end recurrence

/-- Settles O22: the recurrence is `fsStep`'s, element by element. -/
theorem quantizeFloydSteinbergFillsTheGrid : Obligations.QuantizeFloydSteinbergFillsTheGrid := by
  intro s hb hw hok o
  obtain ⟨t, n, u, hexec, hrun, hdone, hgrid, hrest⟩ := quantize_fills_grid (i := .quantizeFs) rfl hb hw hok
  have hpos : 0 < o.imgW := hok.width
  set pal := s.par.palette
  set img := pixelAt s.mem o.src o.imgW
  refine ⟨t, n, u, hexec, hrun, hdone, ⟨fsCur pal img o.imgW, fsNxt pal img o.imgW, fsInkAt pal img o.imgW,
    fun c j => by simp [fsCur, fsNxt, fsBefore], fun k hk => ?_⟩, hrest⟩
  intro x y px v e right below
  have hv : ∀ c, v c = channel (fsColour (img x y) (fsBefore pal img o.imgW k) x) c := fun c => by
    rw [channel_fsColour]
    rfl
  have he : ∀ c, e c = fsErr pal img o.imgW k c := fun c => by
    rw [fsErr, channel_fsError, ← hv]
    rfl
  have hright : ∀ c j, right c j = fsRight pal img o.imgW k c j := fun c j => by
    rw [fsRight, ← he]
  have hbelow : ∀ c j, below c j = fsBelow pal img o.imgW k c j := fun c j => by
    rw [fsBelow, ← he]
  refine ⟨?_, ?_, fun c j _ => ⟨?_, ?_⟩⟩
  · rw [hv, hv, hv]
    rfl
  · rw [rowMajor_eq, hgrid k hk]
    rfl
  · rw [hbelow, hright]
    exact fsCur_succ pal img k c j hpos
  · rw [hbelow]
    exact fsNxt_succ pal img k c j hpos

/-! Modes Ordered and Halftone (R196, R199 to R202). -/

/-- A row of BAYER4 (R196). -/
def bayerRow : Nat → List Int
  | 0 => [0, 8, 2, 10]
  | 1 => [12, 4, 14, 6]
  | 2 => [3, 11, 1, 9]
  | _ => [15, 7, 13, 5]

/-- A row of CLUSTER4 (R202). -/
def clusterRow : Nat → List Int
  | 0 => [12, 5, 6, 13]
  | 1 => [4, 0, 1, 7]
  | 2 => [11, 3, 2, 8]
  | _ => [15, 10, 9, 14]

theorem bayer4_eq (x y : Nat) : (bayer4 (y % 4) (x % 4) : Int) = (bayerRow (y % 4)).getD (x % 4) 0 := by
  have hentry : ∀ r c : Fin 4, (bayer4 r c : Int) = (bayerRow r).getD c 0 := by decide
  exact hentry ⟨y % 4, Nat.mod_lt _ (by decide)⟩ ⟨x % 4, Nat.mod_lt _ (by decide)⟩

theorem cluster4_eq (x y : Nat) : (cluster4 (y % 4) (x % 4) : Int) = (clusterRow (y % 4)).getD (x % 4) 0 := by
  have hentry : ∀ r c : Fin 4, (cluster4 r c : Int) = (clusterRow r).getD c 0 := by decide
  exact hentry ⟨y % 4, Nat.mod_lt _ (by decide)⟩ ⟨x % 4, Nat.mod_lt _ (by decide)⟩

/-- Settles O23: BAYER4 row by row is `bayer4`. -/
theorem quantizeOrderedFillsTheGrid : Obligations.QuantizeOrderedFillsTheGrid := by
  intro s hb hw hok o
  obtain ⟨t, n, u, hexec, hrun, hdone, hgrid, hrest⟩ := quantize_fills_grid (i := .quantizeOrdered) rfl hb hw hok
  refine ⟨t, n, u, hexec, hrun, hdone, fun x y hx hy => ?_, hrest⟩
  intro p row off
  have hoff : orderedOffset x y = off := by
    rw [orderedOffset, bayer4_eq]
    rfl
  rw [hgrid _ (rowMajor_lt hx hy), modeCode_ordered _ _ _ _ hx, orderedCode, hoff]
  rfl

/-- Settles O24: the pixel's cell is `blockPixels` at its quarters, and CLUSTER4 row by row is `cluster4`. -/
theorem quantizeHalftoneFillsTheGrid : Obligations.QuantizeHalftoneFillsTheGrid := by
  intro s hb hw hok o
  obtain ⟨t, n, u, hexec, hrun, hdone, hgrid, hrest⟩ := quantize_fills_grid (i := .quantizeHalftone) rfl hb hw hok
  refine ⟨t, n, u, hexec, hrun, hdone, fun x y hx hy => ?_, hrest⟩
  intro img cell lum lavg dot row
  have hcell : blockOf 4 o.imgW o.imgH (blockIndex 4 o.imgW x y) = cell := blockOf_blockIndex _ y (by decide) hx
  rw [hgrid _ (rowMajor_lt hx hy), modeCode_halftone _ _ _ _ hx, halftoneCode, halftoneWith, cellSum, hcell, cluster4_eq]
  rfl

/-! Mode PopArt (R210 to R212). -/

/-- Settles O25: the dominant entry of the tile's votes, which are counts of its pixels. -/
theorem quantizePopartFillsTheGrid : Obligations.QuantizePopartFillsTheGrid := by
  intro s hb hw hok o
  obtain ⟨t, n, u, hexec, hrun, hdone, hgrid, hrest⟩ := quantize_fills_grid (i := .quantizePopart) rfl hb hw hok
  refine ⟨t, n, u, hexec, hrun, hdone, fun x y hx hy => ?_, hrest⟩
  set img := pixelAt s.mem o.src o.imgW
  refine ⟨dominant (votesOf s.par.palette img o.imgW o.imgH (blockIndex 8 o.imgW x y)), ?_, ?_⟩
  · rw [hgrid _ (rowMajor_lt hx hy), modeCode_popart _ _ _ _ hx]
    rfl
  intro img votes
  have hvotes : ∀ k, inkGet (votesOf s.par.palette img o.imgW o.imgH (blockIndex 8 o.imgW x y)) k = votes k :=
    fun k => by rw [inkGet_votesOf, blockOf_blockIndex _ y (by decide) hx]
  obtain ⟨hmost, hfirst⟩ := dominant_spec (votesOf s.par.palette img o.imgW o.imgH (blockIndex 8 o.imgW x y))
  simp only [hvotes] at hmost hfirst
  exact ⟨hmost, hfirst⟩

end Sys2Proof.Machine
end

section
/-! PROOFS. Accept and validation: a command that nothing stops, and the pass that reads its source before any effect
(10_state.md R61, 42_packer.md R230, R231, 43_panel.md R276, R277, R282). -/

namespace Sys2Proof.Machine

section commands
variable {i : Instr} {s : State}

/-! Accept (R61, 60_exceptions.md R313). -/

/-- The first check that fails is the error the command ends with. -/
theorem exec_rejectedAs {e : ErrCode} (hb : s.busy = false) (h : firstFailing (checksOf i (latched i s)) = some e) :
    ∃ t, exec i s = .next t ∧ RejectedAs e s t :=
  ⟨_, exec_rejected hb h, rejectedAs_raise _ e s⟩

theorem exec_accepted (hi : i ≠ .matchRgb) (hb : s.busy = false) (h : AcceptOk i s) : exec i s = .next (accepted i s) := by
  rw [exec_started hb h, startOf_eq_launch hi]
  rfl

/-- Every command with a source or a destination checks that they lie in data memory (20_memory.md R95). -/
theorem rangesFit_of_checks (h : firstFailing (checksOf i s) = none) : rangesFit i s.op s.par.memSize = true := by
  have hpass : rangeCheck i s ∈ checksOf i s → rangesFit i s.op s.par.memSize = true :=
    fun hmem => rangeCheck_passes.1 (firstFailing_eq_none.1 h _ hmem)
  cases i with
  | quantizeNone | quantizeFs | quantizeHalftone | quantizeOrdered | quantizePopart =>
    exact hpass (by simp [checksOf, quantizeChecks])
  | pack => exact hpass (by simp [checksOf, packChecks])
  | panelFull => exact hpass (by simp [checksOf, fullChecks])
  | panelPartial => exact hpass (by simp [checksOf, partialChecks])
  | matchRgb | panelReset | panelInit | panelBlank _ | panelSleep => rfl

theorem runs_accepted (h : AcceptOk i s) : Runs i (accepted i s) :=
  ⟨rfl, decode_encode i, rangesFit_of_checks (checksOf_pass h)⟩

/-! The validation pass. -/

/-- Command `i` starts by reading the `n` bytes at SRC_ADDR in order, and ends at one that is not `ok`. -/
structure Validates (i : Instr) (ok : Byte → Bool) (n : Op → Nat) : Prop where
  start : ∀ p, startPosition i p = .check 0
  body : ∀ (s : State) (k : Nat), s.seq = .check k → k < n s.op → bodyOf i s = .next
    (if ok (s.mem.read (s.op.src + k)) then { s with seq := .check (k + 1) } else raise .badIndex s)

theorem validates_pack : Validates .pack validByte Op.gridBytes where
  start _ := rfl
  body s k hq hk := by simp only [bodyOf, bodyPack, hq, packCheckStep, if_pos hk]

theorem validates_panelFull : Validates .panelFull validPair Op.len where
  start _ := rfl
  body s k hq hk := by simp only [bodyOf, bodyPanelFull, hq, bufferCheckStep, if_pos hk]

theorem validates_panelPartial : Validates .panelPartial validPair Op.len where
  start _ := rfl
  body s k hq hk := by simp only [bodyOf, bodyPanelPartial, hq, bufferCheckStep, if_pos hk]

/-- The command whose validation has passed its first `k` bytes. -/
def checkedTo (s : State) (k : Nat) : State := { s with seq := .check k }

theorem Runs.checkedTo (hr : Runs i s) (k : Nat) : Runs i (checkedTo s k) := ⟨hr.busy, hr.word, hr.fits⟩

section validation
variable {ok : Byte → Bool} {n : Op → Nat}

theorem Validates.step_good (hv : Validates i ok n) (hr : Runs i s) {k : Nat} (hk : k < n s.op)
    (hgood : ok (s.mem.read (s.op.src + k)) = true) : engineStep (checkedTo s k) = .next (checkedTo s (k + 1)) :=
  (hr.checkedTo k).step.trans <| (hv.body (checkedTo s k) k rfl hk).trans (congrArg Host.Outcome.next (if_pos hgood))

/-- The error leaves nothing of the pass behind. -/
theorem Validates.step_bad (hv : Validates i ok n) (hr : Runs i s) {k : Nat} (hk : k < n s.op)
    (hbad : ok (s.mem.read (s.op.src + k)) = false) : engineStep (checkedTo s k) = .next (raise .badIndex s) :=
  (hr.checkedTo k).step.trans <| (hv.body (checkedTo s k) k rfl hk).trans
    (congrArg Host.Outcome.next (if_neg (Bool.eq_false_iff.1 hbad)))

theorem Validates.run_good (hv : Validates i ok n) (hr : Runs i s)
    (hgood : ∀ j, j < n s.op → ok (s.mem.read (s.op.src + j)) = true) :
    engineRun (n s.op) (checkedTo s 0) = .next (checkedTo s (n s.op)) :=
  engineRun_loop (checkedTo s) (n s.op) fun k hk => hv.step_good hr hk (hgood k hk)

/-- The pass ends at the first byte that is not `ok`. -/
theorem Validates.run_bad (hv : Validates i ok n) (hr : Runs i s)
    (hbad : ∃ j, j < n s.op ∧ ok (s.mem.read (s.op.src + j)) = false) :
    ∃ m, engineRun m (checkedTo s 0) = .next (raise .badIndex s) := by
  obtain ⟨hlt, hfirst⟩ := Nat.find_spec hbad
  refine ⟨_, engineRun_loop_then (checkedTo s) (Nat.find hbad) (fun k hk => ?_) (hv.step_bad hr hlt hfirst)⟩
  have hk' : k < n s.op := hk.trans hlt
  exact hv.step_good hr hk' (Bool.eq_true_of_not_eq_false fun hk_bad => Nat.find_min hbad hk ⟨hk', hk_bad⟩)

theorem Validates.accepted_eq (hv : Validates i ok n) (s : State) : accepted i s = checkedTo (accepted i s) 0 := by
  rw [accepted, hv.start]
  rfl

/-- A command whose source has a byte that is not `ok` fails before any effect. -/
theorem Validates.failedAs (hv : Validates i ok n) (hb : s.busy = false) (hok : AcceptOk i s)
    (hbad : ∃ j, j < n (latched i s).op ∧ ok (s.mem.read ((liveOp s).src + j)) = false) :
    ∃ t m u, exec i s = .next t ∧ engineRun m t = .next u ∧ FailedAs .badIndex s u ∧ u.trace = s.trace ∧
      u.levels = s.levels ∧ u.free = s.free := by
  have hi : i ≠ .matchRgb := by
    rintro rfl
    cases hv.start s.par
  obtain ⟨m, hrun⟩ := hv.run_bad (runs_accepted hok) hbad
  rw [← hv.accepted_eq] at hrun
  exact ⟨_, m, _, exec_accepted hi hb hok, hrun, rfl, rfl, rfl, rfl⟩

end validation

end commands

/-- Settles O33: the three commands share the validation pass, each with its own test of a byte. -/
theorem badIndexEndsBeforeAnyEffect : Obligations.BadIndexEndsBeforeAnyEffect := by
  rintro s i hb (⟨rfl, hok, j, hj, hbad⟩ | ⟨hcommand, j, hj, hbad⟩)
  · exact validates_pack.failedAs hb hok ⟨j, hj, Bool.eq_false_iff.2 (mt (validByte_iff _).1 hbad)⟩
  · have hpair := Bool.eq_false_iff.2 (mt (validPair_iff _).1 (not_and_or.2 hbad))
    obtain ⟨rfl, hok⟩ | ⟨rfl, hok⟩ := hcommand
    · exact validates_panelFull.failedAs hb hok ⟨j, hj, hpair⟩
    · exact validates_panelPartial.failedAs hb hok ⟨j, hj, hpair⟩

end Sys2Proof.Machine
end

section
/-! PROOFS. Packer: PACK at accept, the bytes it makes of a grid, and their unpacking (42_packer.md R230 to R237). -/

namespace Sys2Proof.Machine

/-! Accept (R230, 60_exceptions.md R313). -/

/-- Both ranges of an IndexGrid with a pixel lie in data memory (20_memory.md R95). -/
theorem rangesFit_pack_iff {o : Op} (hw : 1 ≤ o.imgW) (hh : 1 ≤ o.imgH) (size : Nat) :
    rangesFit .pack o size = true ↔
      ¬ (size < o.src + o.imgW * o.imgH ∨ size < o.dst + o.imgH * ceilDiv o.imgW 2) := by
  have hgrid : 0 < o.imgW * o.imgH := Nat.mul_pos hw hh
  have hframe : 0 < o.imgH * ceilDiv o.imgW 2 := Nat.mul_pos hh (Nat.zero_lt_of_lt (div_lt_ceilDiv Nat.two_pos hw))
  rw [rangesFit_iff, show srcLen .pack o = o.imgW * o.imgH from rfl,
    show dstLen .pack o = o.imgH * ceilDiv o.imgW 2 from rfl]
  omega

/-- IndexGrid and FrameBuffer share a byte (20_memory.md R96). -/
theorem rangesOverlap_pack_iff (o : Op) :
    rangesOverlap .pack o = true ↔ ∃ a, (o.src ≤ a ∧ a < o.src + o.imgW * o.imgH) ∧
      (o.dst ≤ a ∧ a < o.dst + o.imgH * ceilDiv o.imgW 2) := by
  simp only [rangesOverlap_iff, inSrc, inDst, inRange_iff]
  rfl

/-- PACK's checks are QUANTIZE's, on its own ranges. -/
theorem firstFailing_packChecks (s : State) :
    firstFailing (packChecks s) =
      if s.op.imgW = 0 ∨ s.op.imgH = 0 then some .zeroDim
      else if ¬ rangesFit .pack s.op s.par.memSize = true then some .memRange
      else if rangesOverlap .pack s.op = true then some .overlap else none :=
  firstFailing_quantizeChecks .pack s

/-- Settles O31: the checks in their order, each in the terms of its rule. -/
theorem packRejectsInOrder : Obligations.PackRejectsInOrder := by
  intro s hb o n f beyond
  have hdim : 1 ≤ o.imgW → 1 ≤ o.imgH → ¬ (o.imgW = 0 ∨ o.imgH = 0) := by omega
  have hfit : 1 ≤ o.imgW → 1 ≤ o.imgH → (rangesFit .pack (latched .pack s).op s.par.memSize = true ↔ ¬ beyond) :=
    fun hw hh => rangesFit_pack_iff hw hh s.par.memSize
  refine ⟨fun hzero => exec_rejectedAs hb ?_, fun hw hh hbeyond => exec_rejectedAs hb ?_,
    fun hw hh hwithin hshared => exec_rejectedAs hb ?_⟩ <;> refine (firstFailing_packChecks _).trans ?_
  · exact if_pos hzero
  · exact (if_neg (hdim hw hh)).trans (if_pos fun hfits => (hfit hw hh).1 hfits hbeyond)
  · exact (if_neg (hdim hw hh)).trans ((if_neg (not_not_intro ((hfit hw hh).2 hwithin))).trans
      (if_pos ((rangesOverlap_pack_iff _).2 hshared)))

/-! The bytes of a FrameBuffer (R232, R234). -/

/-- The bytes PACK makes of the grid `g` of width `w`, row after row (R235). -/
def packedBytes (g : Nat → Nat → Byte) (w j : Nat) : Byte := packedByte g w (j / ceilDiv w 2) (j % ceilDiv w 2)

section bytes
variable (g : Nat → Nat → Byte) {w : Nat} (y : Nat)

theorem packedBytes_rowMajor {k : Nat} (hk : k < ceilDiv w 2) :
    packedBytes g w (y * ceilDiv w 2 + k) = packedByte g w y k := by
  rw [packedBytes, rowMajor_div y hk, rowMajor_mod y hk]

theorem highNibble_packedByte (k : Nat) : highNibble (packedByte g w y k) = lowNibble (g (2 * k) y) := nibbles_high _ _

theorem lowNibble_packedByte (k : Nat) :
    lowNibble (packedByte g w y k) = if 2 * k + 1 < w then lowNibble (g (2 * k + 1) y) else padNibble :=
  nibbles_low _ _

/-- Pixel (x, y) is the high or the low nibble of byte x / 2 of its row (R236). -/
theorem unpackCode_packedBytes {x : Nat} (hx : x < w) : unpackCode (packedBytes g w) w x y = lowNibble (g x y) := by
  have hk : x / 2 < ceilDiv w 2 := div_lt_ceilDiv Nat.two_pos hx
  rw [unpackCode]
  split
  · next heven =>
    rw [packedBytes_rowMajor g y hk, highNibble_packedByte, Nat.mul_div_cancel' (Nat.dvd_of_mod_eq_zero heven)]
  · next hodd =>
    have hpair : (x - 1) / 2 = x / 2 := by omega
    have hlow : 2 * (x / 2) + 1 = x := by omega
    rw [hpair, packedBytes_rowMajor g y hk, lowNibble_packedByte, hlow, if_pos hx]

end bytes

/-! A palette code is its own low nibble (R231). -/

theorem codeByte_lowNibble {b : Byte} (h : validByte b = true) : codeByte ((lowNibble b).setWidth 3) = b := by
  revert b
  decide

theorem setWidth_lowNibble {b : Byte} (h : validByte b = true) : (lowNibble b).setWidth 8 = b := by
  revert b
  decide

/-- Settles O34: unpacking gives each byte's low nibble, and that is the whole byte where the byte is a code. -/
theorem unpackThenPackRoundTrips : Obligations.UnpackThenPackRoundTrips := by
  intro g w _ hvalid bytes
  have hunpack : ∀ x y, x < w → unpackCode bytes w x y = lowNibble (g x y) := fun x y => unpackCode_packedBytes g y
  refine ⟨fun x y hx => ?_, fun y k hk => ?_⟩
  · rw [hunpack x y hx, codeByte_lowNibble (hvalid x y)]
  · calc packedByte (fun x y => (unpackCode bytes w x y).setWidth 8) w y k
        = packedByte g w y k := packedByte_congr hk fun x hx => by rw [hunpack x y hx, setWidth_lowNibble (hvalid x y)]
      _ = bytes (y * ceilDiv w 2 + k) := (packedBytes_rowMajor g y hk).symm

/-! PACK from its validation to its completion (R230, R235). -/

/-- Filling a part of the destination leaves the source as it was, once the overlap check has passed. -/
theorem read_fill_source {i : Instr} {o : Op} {m : Memory} (hm : Memory.wf m) (hapart : rangesOverlap i o = false)
    (f : Nat → Byte) {k a : Nat} (hk : k ≤ dstLen i o) (ha : inSrc i o a = true) :
    (fill m o.dst f k).read a = m.read a := by
  have hdst : ¬ (o.dst ≤ a ∧ a < o.dst + dstLen i o) := by
    rw [← inRange_iff, Bool.not_eq_true]
    exact apart_of_not_overlap hapart ha
  rw [read_fill hm, if_neg (by omega)]

/-- The bytes PACK makes of its IndexGrid. -/
def frameByte (s : State) : Nat → Byte := packedBytes (gridAt s.mem s.op.src s.op.imgW) s.op.imgW

/-- PACK after it has written its first `k` bytes. -/
def packedTo (s : State) (k : Nat) : State :=
  { s with seq := .packByte k, mem := fill s.mem s.op.dst (frameByte s) k }

section run
variable {s : State}

theorem Runs.packedTo (hr : Runs .pack s) (k : Nat) : Runs .pack (packedTo s k) := ⟨hr.busy, hr.word, hr.fits⟩

/-- The bytes still to be written are what they were before the first. -/
theorem frameByte_packedTo (hm : Memory.wf s.mem) (hapart : rangesOverlap .pack s.op = false) {k : Nat}
    (hk : k < s.op.frameBytes) : frameByte (packedTo s k) k = frameByte s k := by
  have hinside : k < s.op.stride * s.op.imgH := Nat.mul_comm s.op.imgH s.op.stride ▸ hk
  exact packedByte_congr (column_lt hinside) fun x hx => read_fill_source hm hapart _ hk.le <|
    (inRange_iff _ _ _).2 ⟨Nat.le_add_right _ _, Nat.add_lt_add_left (rowMajor_lt hx (row_lt hinside)) _⟩

theorem step_packedTo (hr : Runs .pack s) (hm : Memory.wf s.mem) (hapart : rangesOverlap .pack s.op = false) {k : Nat}
    (hk : k < s.op.frameBytes) : engineStep (packedTo s k) = .next (packedTo s (k + 1)) := by
  have hbody : bodyOf .pack (packedTo s k) = .next
      { packedTo s k with
        mem := (packedTo s k).mem.write (s.op.dst + k) (frameByte (packedTo s k) k)
        seq := .packByte (k + 1) } := body_packByte rfl hk
  rw [(hr.packedTo k).step, hbody, frameByte_packedTo hm hapart hk]
  rfl

/-- A valid grid passes the validation, and then every byte of the FrameBuffer is written. -/
theorem pack_run (hr : Runs .pack s) (hm : Memory.wf s.mem) (hapart : rangesOverlap .pack s.op = false)
    (hvalid : ∀ j, j < s.op.gridBytes → validByte (s.mem.read (s.op.src + j)) = true) :
    ∃ n, engineRun n (checkedTo s 0) = .next (complete (some s.op.frameBytes) (packedTo s s.op.frameBytes)) := by
  have hcheck := validates_pack.run_good hr hvalid
  have hend : engineStep (checkedTo s s.op.gridBytes) = .next (packedTo s 0) :=
    (hr.checkedTo _).step.trans (body_packCheck_end rfl (Nat.lt_irrefl _))
  have hdone : engineStep (packedTo s s.op.frameBytes) =
      .next (complete (some s.op.frameBytes) (packedTo s s.op.frameBytes)) :=
    (hr.packedTo _).step.trans (body_packByte_end rfl (Nat.lt_irrefl _))
  have hwrite := engineRun_loop_then (packedTo s) s.op.frameBytes (fun k => step_packedTo hr hm hapart) hdone
  exact ⟨_, engineRun_trans hcheck ((engineRun_succ hend).trans hwrite)⟩

/-- The bytes the write pass has reached, and all others. -/
theorem read_packedTo (hm : Memory.wf s.mem) (k a : Nat) :
    (packedTo s k).mem.read a =
      if s.op.dst ≤ a ∧ a < s.op.dst + k then frameByte s (a - s.op.dst) else s.mem.read a :=
  read_fill hm _ _ _ _

end run

theorem not_rangesOverlap_of_packOk {s : State} (h : PackOk s) : rangesOverlap .pack (latched .pack s).op = false :=
  overlapCheck_passes.1 (firstFailing_eq_none.1 (packChecks_pass (w := encode .pack) h) _ (by simp [packChecks]))

/-- Settles O32: the FrameBuffer is filled with `packedBytes` of the grid, whose nibbles are the pixels'. -/
theorem packFillsTheFrameBuffer : Obligations.PackFillsTheFrameBuffer := by
  intro s hb hm hok o l hcodes
  obtain ⟨n, hrun⟩ := pack_run (runs_accepted hok) hm (not_rangesOverlap_of_packOk hok)
    fun j hj => (validByte_iff _).2 (hcodes j hj)
  have hread := read_packedTo (s := accepted .pack s) hm (o.imgH * l)
  refine ⟨_, n, _, exec_accepted nofun hb hok, hrun, rfl, fun y k hy hk => ?_, fun a ha => (hread a).trans (if_neg ?_)⟩
  · have hbyte : (packedTo (accepted .pack s) (o.imgH * l)).mem.read (o.dst + (y * l + k)) =
        packedByte (gridAt s.mem o.src o.imgW) o.imgW y k := by
      have hinside : y * l + k < o.imgH * l := Nat.mul_comm l o.imgH ▸ rowMajor_lt hk hy
      rw [hread, if_pos ⟨Nat.le_add_right _ _, Nat.add_lt_add_left hinside _⟩]
      exact (congrArg (frameByte _) (Nat.add_sub_cancel_left _ _)).trans (packedBytes_rowMajor _ y hk)
    exact ⟨(congrArg highNibble hbyte).trans (highNibble_packedByte _ _ _),
      (congrArg lowNibble hbyte).trans (lowNibble_packedByte _ _ _)⟩
  · rintro ⟨hlo, hhi⟩
    exact ha.elim (Nat.not_lt_of_le hlo) (Nat.not_le_of_lt hhi)

end Sys2Proof.Machine
end

section
/-! PROOFS. Panel: the panel commands at accept, and PANEL_RESET (43_panel.md R259, R260, R266, R276, R282, R283, R288,
60_exceptions.md R313). -/

namespace Sys2Proof.Machine

/-- The check of PSTATE is the first of every command that has one (R260). -/
theorem exec_badState {i : Instr} {p : PState} {s : State} (hb : s.busy = false) (hstart : startPState i = some p)
    (hp : s.pstate ≠ p) : ∃ t, exec i s = .next t ∧ RejectedAs .badState s t := by
  refine exec_rejectedAs hb ?_
  cases i <;> cases hstart <;> exact (firstFailing_cons _ _ _).trans (if_pos (decide_eq_true hp))

/-- Settles O35: each command's row of R259 has one state marked ok, the one its first check asks for. -/
theorem wrongStateIsRefusedWithoutTraffic : Obligations.WrongStateIsRefusedWithoutTraffic := by
  rintro s i hb (⟨rfl, hp⟩ | ⟨rfl | rfl | rfl | ⟨c, rfl⟩, hp⟩) <;> exact exec_badState hb rfl hp

/-! The operand checks that follow it (R276, R282, R288). -/

section checks
variable {s : State}

theorem firstFailing_fullChecks (hp : s.pstate = .initialized) : firstFailing (fullChecks s) =
    if s.op.len ≠ panelBytes s.par then some .badLength
    else if ¬ rangesFit .panelFull s.op s.par.memSize = true then some .memRange else none := by
  simp [fullChecks, stateCheck, rangeCheck, hp]

theorem firstFailing_partialChecks (hp : s.pstate = .initialized) : firstFailing (partialChecks s) =
    if ¬ windowLegal s.par s.op = true then some .badWindow
    else if s.op.len ≠ s.op.windowBytes then some .badLength
    else if ¬ rangesFit .panelPartial s.op s.par.memSize = true then some .memRange else none := by
  simp [partialChecks, stateCheck, rangeCheck, hp]

theorem firstFailing_blankChecks (hp : s.pstate = .initialized) (c : Code) : firstFailing (blankChecks c s) =
    if ¬ c.valid = true then some .badIndex
    else if ¬ blankLegal s.par s.op = true then some .badWindow else none := by
  simp [blankChecks, stateCheck, hp]

/-- The codes that are none: the source reserves 4 and 7 (00_scope.md R21). -/
theorem valid_iff (c : Code) : c.valid = true ↔ c ≠ 4#3 ∧ c ≠ 7#3 := by
  revert c
  decide

/-- A buffer with a byte at or beyond MEM_SIZE does not pass the range check (20_memory.md R95). -/
theorem not_rangesFit_of_source {i : Instr} {o : Op} {size : Nat} (hsrc : srcLen i o = o.len) (hpos : 0 < o.len)
    (hbeyond : size < o.src + o.len) : ¬ rangesFit i o size = true := by
  rw [rangesFit_iff, hsrc]
  omega

/-- A legal window has a byte (R283). -/
theorem WindowOk.bytes_pos (h : WindowOk s) : 0 < (liveOp s).winH * ceilDiv (liveOp s).winW 2 :=
  Nat.mul_pos h.height (Nat.zero_lt_of_lt (div_lt_ceilDiv Nat.two_pos h.width))

end checks

/-- Settles O36: the checks in their order, each in the terms of its rule. -/
theorem transferOperandsAreCheckedInOrder : Obligations.TransferOperandsAreCheckedInOrder := by
  intro s hb hp o full part
  have hfull := firstFailing_fullChecks (s := latched .panelFull s) hp
  have hpart := firstFailing_partialChecks (s := latched .panelPartial s) hp
  have hblank := fun c => firstFailing_blankChecks (s := latched (.panelBlank c) s) hp c
  have hlegal : windowLegal s.par (latched .panelPartial s).op = true ↔ WindowOk s := windowLegal_iff
  have harea : ∀ c, blankLegal s.par (latched (.panelBlank c) s).op = true ↔ AreaOk s := fun _ => blankLegal_iff
  refine ⟨fun hlen => exec_rejectedAs hb (hfull.trans ?_),
    fun hlen hpos hbeyond => exec_rejectedAs hb (hfull.trans ?_),
    fun hwin => exec_rejectedAs hb (hpart.trans ?_), fun hwin hlen => exec_rejectedAs hb (hpart.trans ?_),
    fun hwin hlen hbeyond => exec_rejectedAs hb (hpart.trans ?_), fun c hc => exec_rejectedAs hb ((hblank c).trans ?_),
    fun c h4 h7 hsize => exec_rejectedAs hb ((hblank c).trans ?_)⟩
  · exact if_pos hlen
  · exact (if_neg (not_not_intro hlen)).trans (if_pos
      (not_rangesFit_of_source (o := (latched .panelFull s).op) rfl hpos hbeyond))
  · exact if_pos (hlegal.not.2 hwin)
  · exact (if_neg (not_not_intro (hlegal.2 hwin))).trans (if_pos hlen)
  · have hpos : 0 < o.len := hlen ▸ hwin.bytes_pos
    exact (if_neg (not_not_intro (hlegal.2 hwin))).trans ((if_neg (not_not_intro hlen)).trans
      (if_pos
      (not_rangesFit_of_source (o := (latched .panelPartial s).op) rfl hpos hbeyond)))
  · exact if_pos ((valid_iff c).not.2 (by tauto))
  · exact (if_neg (not_not_intro ((valid_iff c).2 ⟨h4, h7⟩))).trans (if_pos ((harea c).not.2 hsize))

/-! PANEL_RESET (R266). -/

/-- High, low and high, each with its hold time. -/
def resetEvents : List BusEvent := [.rst true, .delay .rstH1, .rst false, .delay .rstL, .rst true, .delay .rstH2]

/-- PANEL_RESET after its first `k` steps: the first changes PSTATE, each later one issues an event. -/
def resetLineAfter (s : State) (k : Nat) : State :=
  { s with
    seq := .resetLine k
    pstate := if k = 0 then s.pstate else .resetting
    rstOut := match k with
      | 0 | 1 => s.rstOut
      | 4 | 5 => false
      | _ => true
    trace := (resetEvents.take (k - 1)).reverse ++ s.trace }

theorem Runs.step_resetLineAfter {s : State} (hr : Runs .panelReset s) {k : Nat} (hk : k < 7) :
    engineStep (resetLineAfter s k) = .next (resetLineAfter s (k + 1)) := by
  have hrun : Runs .panelReset (resetLineAfter s k) := ⟨hr.busy, hr.word, hr.fits⟩
  rw [hrun.step]
  interval_cases k <;> rfl

theorem Runs.reset_run {s : State} (hr : Runs .panelReset s) :
    engineRun 8 (resetLineAfter s 0) = .next (complete none (resetLineAfter s 7)) :=
  have hrun : Runs .panelReset (resetLineAfter s 7) := ⟨hr.busy, hr.word, hr.fits⟩
  engineRun_loop_then (resetLineAfter s) 7 (fun _ hk => hr.step_resetLineAfter hk) hrun.step

/-- Settles O37: PSTATE, six events on the line, and the completion. -/
theorem panelResetDrivesTheResetLine : Obligations.PanelResetDrivesTheResetLine := by
  intro s hb
  have hrun := (runs_accepted (i := .panelReset) (s := s) trivial).reset_run
  exact ⟨_, 8, _, exec_accepted nofun hb trivial, hrun, rfl, List.reverse_append⟩

end Sys2Proof.Machine
end

section
/-! PROOFS. Panel: step lists and transfers from their accept to their end (43_panel.md R255, R256, R270, R276, R282,
R284, R288, R289, R294). -/

namespace Sys2Proof.Machine

/-! A step list that the pending busy levels decide (R255, R256). -/

/-- Command `i`, accepted in `s`, at the start of the step list `todo`: `before` is issued, PSTATE is `p`. -/
def onList (i : Instr) (s : State) (p : PState) (before : List BusEvent) (todo : List PanelStep) : State :=
  { atBus (accepted i s) (.steps todo) before s.levels s.polls with pstate := p }

section lists
variable {i : Instr} {s : State} {p after : PState} {r : Op → Option Nat} {todo : List PanelStep}
  {before ev : List BusEvent} {rest : List Level}

theorem runs_onList (hok : AcceptOk i s) : Runs i (onList i s p before todo) := by
  obtain ⟨hbusy, hword, hfits⟩ := runs_accepted hok
  exact ⟨hbusy, hword, hfits⟩

/-- What the list issues follows what was issued before it. -/
theorem busTrace_onList (q : Seq) (rest : List Level) (n : Nat) :
    busTrace (atBus (onList i s p before todo) q ev rest n) = busTrace s ++ before ++ ev :=
  (busTrace_atBus _ q ev rest n).trans
    (congrArg (· ++ ev) (busTrace_atBus (accepted i s) (.steps todo) before s.levels s.polls))

/-- Command `i`, once accepted in `s`, starts the step list `todo` when it has issued the events `before`. -/
def ComesToList (i : Instr) (s : State) (before : List BusEvent) (todo : List PanelStep) : Prop :=
  ∃ n p, engineRun n (accepted i s) = .next (onList i s p before todo)

/-- A list that runs to its end completes the command (10_state.md R62). -/
theorem ComesToList.done (h : ComesToList i s before todo) (hi : i ≠ .matchRgb) (hb : s.busy = false)
    (hok : AcceptOk i s) (hl : RunsLists i after r)
    (hev : listEvents s.par.busyActive s.busyTimeout.toNat todo s.levels = some (ev, rest, false)) :
    ∃ t n u, exec i s = .next t ∧ engineRun n t = .next u ∧
      DoneOnBus after (complete (r (latched i s).op) s).result s u ∧
      busTrace u = busTrace s ++ before ++ ev ∧ u.levels = rest ∧ u.free = s.free := by
  obtain ⟨n, p, hstart⟩ := h
  have hr : Runs i (onList i s p before todo) := runs_onList hok
  obtain ⟨m, polls, hlist⟩ := list_run (n := s.polls) hl todo hr hev
  have hend := finish_run (s := { atBus (onList i s p before todo) .finish ev rest polls with pstate := after }) hl
    ⟨hr.busy, hr.word, hr.fits⟩ rfl
  have hrun := engineRun_trans (engineRun_trans hstart hlist) ((engineRun_succ hend).trans (engineRun_zero _))
  exact ⟨_, _, _, exec_accepted hi hb hok, hrun, rfl, busTrace_onList .finish rest polls, rfl, rfl⟩

/-- A wait that times out ends the command with what was issued before it (R256, 60_exceptions.md R318). -/
theorem ComesToList.failed (h : ComesToList i s before todo) (hi : i ≠ .matchRgb) (hb : s.busy = false)
    (hok : AcceptOk i s) (hl : RunsLists i after r)
    (hev : listEvents s.par.busyActive s.busyTimeout.toNat todo s.levels = some (ev, rest, true)) :
    ∃ t n u, exec i s = .next t ∧ engineRun n t = .next u ∧ FailedAs .busyTimeout s u ∧
      busTrace u = busTrace s ++ before ++ ev ∧ u.levels = rest ∧ u.free = s.free := by
  obtain ⟨n, p, hstart⟩ := h
  have hr : Runs i (onList i s p before todo) := runs_onList hok
  obtain ⟨m, polls, ⟨more, hlist⟩, hpos, hbound⟩ := list_run (n := s.polls) hl todo hr hev
  have hend := timeout_run hl (hr.atBus (.polled more) ev rest polls) rfl hpos hbound
  have hrun := engineRun_trans (engineRun_trans hstart hlist) ((engineRun_succ hend).trans (engineRun_zero _))
  exact ⟨_, _, _, exec_accepted hi hb hok, hrun, rfl, busTrace_onList (.polled more) rest polls, rfl, rfl⟩

/-! Where the lists start. -/

/-- PANEL_INIT and PANEL_SLEEP start with their list (R270, R294). -/
theorem comesToList_at_start (hstart : startPosition i s.par = .steps todo) : ComesToList i s [] todo :=
  ⟨0, s.pstate, by rw [accepted, hstart]; rfl⟩

/-- A transfer comes to REFRESH_SEQ by way of its frames and its data (R265). -/
theorem comesToList_of_transmit {n m : Nat} {frames : List BusEvent} {byte : Nat → Byte} (hok : AcceptOk i s)
    (hrun : engineRun m (accepted i s) = .next { accepted i s with seq := .transmit })
    (hs : Sends i frames n byte { accepted i s with seq := .transmit }) :
    ComesToList i s (frames ++ dataEvents n byte) s.par.refreshSeq := by
  obtain ⟨hbusy, hword, hfits⟩ := runs_accepted hok
  obtain ⟨m', hsend⟩ := transfer_run (s := { accepted i s with seq := .transmit }) ⟨hbusy, hword, hfits⟩ hs rfl
  exact ⟨_, .refreshing, engineRun_trans hrun hsend⟩

theorem comesToList_panelBlank {c : Code} (hok : BlankOk c s) :
    ComesToList (.panelBlank c) s
      (.cmd s.par.cmdDataStart :: dataEvents ((liveOp s).winH * ceilDiv (liveOp s).winW 2) fun _ => fillByte c)
      s.par.refreshSeq :=
  comesToList_of_transmit (i := .panelBlank c) (m := 0) hok rfl (sends_panelBlank c _)

/-- After the last buffer byte the transfer begins (R276, R282). -/
theorem body_bufferCheck_end (hi : i = .panelFull ∨ i = .panelPartial) {k : Nat} (hq : s.seq = .check k)
    (hk : ¬ k < s.op.len) : bodyOf i s = .next { s with seq := .transmit } := by
  rcases hi with rfl | rfl <;> simp only [bodyOf, bodyPanelFull, bodyPanelPartial, hq, bufferCheckStep, if_neg hk]

/-- A display command's valid buffer passes the validation (R277). -/
theorem run_to_transmit (hi : i = .panelFull ∨ i = .panelPartial) (hok : AcceptOk i s)
    (hvalid : ∀ j, j < (liveOp s).len → validPair (s.mem.read ((liveOp s).src + j)) = true) :
    ∃ m, engineRun m (accepted i s) = .next { accepted i s with seq := .transmit } := by
  have hv : Validates i validPair Op.len := by
    rcases hi with rfl | rfl
    · exact validates_panelFull
    · exact validates_panelPartial
  have hr := runs_accepted hok
  have hcheck := hv.run_good hr hvalid
  have hlast := (hr.checkedTo (liveOp s).len).step.trans (body_bufferCheck_end hi rfl (Nat.lt_irrefl _))
  rw [← hv.accepted_eq] at hcheck
  exact ⟨_, engineRun_trans hcheck ((engineRun_succ hlast).trans (engineRun_zero _))⟩

theorem comesToList_panelFull (hok : FullOk s)
    (hvalid : ∀ j, j < (liveOp s).len → validPair (s.mem.read ((liveOp s).src + j)) = true) :
    ComesToList .panelFull s
      (.cmd s.par.cmdDataStart :: dataEvents (liveOp s).len fun j => s.mem.read ((liveOp s).src + j))
      s.par.refreshSeq := by
  obtain ⟨m, hrun⟩ := run_to_transmit (i := .panelFull) (.inl rfl) hok hvalid
  exact comesToList_of_transmit (i := .panelFull) hok hrun (sends_panelFull _)

theorem comesToList_panelPartial (hok : PartialOk s)
    (hvalid : ∀ j, j < (liveOp s).len → validPair (s.mem.read ((liveOp s).src + j)) = true) :
    ComesToList .panelPartial s
      (windowFrame s.par (liveOp s) ++ .cmd s.par.cmdDataStart ::
        dataEvents (liveOp s).len fun j => s.mem.read ((liveOp s).src + j))
      s.par.refreshSeq := by
  obtain ⟨m, hrun⟩ := run_to_transmit (i := .panelPartial) (.inr rfl) hok hvalid
  exact comesToList_of_transmit (i := .panelPartial) hok hrun (sends_panelPartial _)

end lists

/-- Settles O38: both commands start with their list. -/
theorem panelInitAndSleepRunTheirLists : Obligations.PanelInitAndSleepRunTheirLists := by
  intro s ev rest hb
  refine ⟨fun hp hev => ?_, fun hp hev => ?_⟩
  · simpa using (comesToList_at_start rfl).done (i := .panelInit) nofun hb hp runsLists_panelInit hev
  · simpa using (comesToList_at_start rfl).done (i := .panelSleep) nofun hb hp runsLists_panelSleep hev

/-- Settles O39: the validated buffer follows the data command, and REFRESH_SEQ follows the buffer. -/
theorem panelFullSendsTheBufferAndRefreshes : Obligations.PanelFullSendsTheBufferAndRefreshes := by
  intro s ev rest hb hok hvalid hev
  obtain ⟨t, n, u, hexec, hrun, hdone, htrace, hleft⟩ :=
    (comesToList_panelFull hok hvalid).done (i := .panelFull) nofun hb hok runsLists_panelFull hev
  exact ⟨t, n, u, hexec, hrun, hdone, by simpa using htrace, hleft⟩

/-! The window frame (R284). -/

theorem coordBytes_eq (n : Nat) :
    coordBytes n = [.data (BitVec.ofNat 8 (n / 256)), .data (BitVec.ofNat 8 (n % 256))] := by
  have hhi : (BitVec.ofNat 16 n).extractLsb' 8 8 = BitVec.ofNat 8 (n / 256) := by
    refine BitVec.eq_of_toNat_eq ?_
    simp only [BitVec.extractLsb'_toNat, BitVec.toNat_ofNat, Nat.shiftRight_eq_div_pow]
    omega
  have hlo : (BitVec.ofNat 16 n).extractLsb' 0 8 = BitVec.ofNat 8 (n % 256) := by
    refine BitVec.eq_of_toNat_eq ?_
    simp only [BitVec.extractLsb'_toNat, BitVec.toNat_ofNat, Nat.shiftRight_zero]
    omega
  rw [coordBytes, hhi, hlo]

/-- Settles O40: the window frame's coordinates, byte by byte, come before the data command. -/
theorem panelPartialSendsTheWindowFirst : Obligations.PanelPartialSendsTheWindowFirst := by
  intro s ev rest hb _ hok hvalid hev o hi lo x1 y1
  obtain ⟨t, n, u, hexec, hrun, hdone, htrace, hleft⟩ :=
    (comesToList_panelPartial hok hvalid).done (i := .panelPartial) nofun hb hok runsLists_panelPartial hev
  exact ⟨t, n, u, hexec, hrun, hdone, by simpa [windowFrame, coordBytes_eq] using htrace, hleft⟩

/-! The fill byte (R289). -/

theorem fillByte_eq (c : Code) : fillByte c = BitVec.ofNat 8 (16 * c.toNat + c.toNat) := by
  revert c
  decide

theorem dataEvents_const (n : Nat) (b : Byte) : dataEvents n (fun _ => b) = List.replicate n (.data b) := by
  rw [dataEvents, List.map_const', List.length_range]

/-- Settles O41: every data byte is the fill byte. -/
theorem panelBlankSendsTheFillByte : Obligations.PanelBlankSendsTheFillByte := by
  intro s c ev rest hb hok hev o n
  obtain ⟨t, m, u, hexec, hrun, hdone, htrace, hleft⟩ :=
    (comesToList_panelBlank hok).done (i := .panelBlank c) nofun hb hok (runsLists_panelBlank c) hev
  exact ⟨t, m, u, hexec, hrun, hdone, by simpa [dataEvents_const, fillByte_eq] using htrace, hleft⟩

/-- Settles O42: a timeout ends the command in its list, whatever came before the list. -/
theorem timeoutRestoresThePanelState : Obligations.TimeoutRestoresThePanelState := by
  rintro s i todo before ev rest hb (⟨rfl, hp, rfl, rfl⟩ | ⟨rfl, hp, rfl, rfl⟩ | ⟨c, rfl, hok, rfl, rfl⟩ |
    ⟨hvalid, rfl, ⟨rfl, hok, rfl⟩ | ⟨rfl, hok, rfl⟩⟩) hev
  · exact (comesToList_at_start rfl).failed nofun hb hp runsLists_panelInit hev
  · exact (comesToList_at_start rfl).failed nofun hb hp runsLists_panelSleep hev
  · exact (comesToList_panelBlank hok).failed nofun hb hok (runsLists_panelBlank c) hev
  · exact (comesToList_panelFull hok hvalid).failed nofun hb hok runsLists_panelFull hev
  · exact (comesToList_panelPartial hok hvalid).failed nofun hb hok runsLists_panelPartial hev

end Sys2Proof.Machine
end

section
/-! PROOFS. Panel: a busy-wait without a bound (43_panel.md R256, R299). -/

namespace Sys2Proof.Machine

/-- A command that stands in a step list runs it as `listBody` does. -/
theorem runsLists_of_position {i : Instr} {p p' : PState} {q : Seq} (hq : IsListPosition q)
    (hp : seqPState i p q = some p') : ∃ after r, RunsLists i after r := by
  cases i with
  | panelInit => exact ⟨_, _, runsLists_panelInit⟩
  | panelSleep => exact ⟨_, _, runsLists_panelSleep⟩
  | panelFull => exact ⟨_, _, runsLists_panelFull⟩
  | panelPartial => exact ⟨_, _, runsLists_panelPartial⟩
  | panelBlank c => exact ⟨_, _, runsLists_panelBlank c⟩
  | _ => cases q <;> cases hq <;> cases hp

section waits
variable {i : Instr} {after : PState} {r : Op → Option Nat} {s : State}

/-- One round of a wait without a bound: a busy reading, then a delay. -/
theorem busy_round (hl : RunsLists i after r) (hr : Runs i s) (hk : s.op.timeout = 0) (todo : List PanelStep)
    (ls : List Level) (n : Nat) :
    engineRun 2 (atBus s (.poll todo) [] (s.par.busyActive :: ls) n) =
      .next (atBus s (.poll todo) [.poll s.par.busyActive, .delay .pollInterval] ls (n + 1)) := by
  have hpoll : engineStep (atBus s (.poll todo) [] (s.par.busyActive :: ls) n) =
      .next (atBus s (.polled todo) [.poll s.par.busyActive] ls (n + 1)) := by
    rw [(hr.atBus _ _ _ _).step, hl (atBus s (.poll todo) [] (s.par.busyActive :: ls) n) trivial]
    exact congrArg Host.Outcome.next ((pollStep_cons s todo _ ls n).trans (if_pos rfl))
  have hdelay : engineStep (atBus s (.polled todo) [.poll s.par.busyActive] ls (n + 1)) =
      .next (atBus s (.poll todo) [.poll s.par.busyActive, .delay .pollInterval] ls (n + 1)) := by
    rw [(hr.atBus _ _ _ _).step, hl (atBus s (.polled todo) [.poll s.par.busyActive] ls (n + 1)) trivial]
    have hgoes : pollsExhausted (atBus s (.polled todo) [.poll s.par.busyActive] ls (n + 1)) = false :=
      Bool.and_eq_false_imp.2 fun hne => absurd hk (of_decide_eq_true hne)
    exact congrArg Host.Outcome.next (if_neg (Bool.eq_false_iff.1 hgoes))
  rw [engineRun_succ hpoll, engineRun_succ hdelay, engineRun_zero]

/-- Any number of rounds: the wait is still where it was. -/
theorem busy_rounds (hl : RunsLists i after r) (hr : Runs i s) (hk : s.op.timeout = 0) (todo : List PanelStep)
    (more : List Level) (n p : Nat) :
    engineRun (2 * n) (atBus s (.poll todo) [] (List.replicate n s.par.busyActive ++ more) p) =
      .next (atBus s (.poll todo) (List.replicate n [.poll s.par.busyActive, .delay .pollInterval]).flatten more
        (p + n)) := by
  induction n generalizing s p with
  | zero => rfl
  | succ n ih =>
    have hfirst := busy_round hl hr hk todo (List.replicate n s.par.busyActive ++ more) p
    have hrest := ih (hr.atBus (.poll todo) [.poll s.par.busyActive, .delay .pollInterval] s.levels p) hk (p + 1)
    rw [atBus_atBus, atBus_atBus, List.append_nil, Nat.add_right_comm] at hrest
    have hrun := engineRun_trans hfirst hrest
    rw [Nat.add_comm] at hrun
    exact hrun

end waits

/-- Settles O43: the rounds of a wait that the invariant says belongs to a step list. -/
theorem unboundedWaitNeverEndsOnABusyLine : Obligations.UnboundedWaitNeverEndsOnABusyLine := by
  intro s todo n more hs hb hq hk hlevels
  obtain ⟨i, hi⟩ := hs.run hb
  obtain ⟨after, r, hl⟩ := runsLists_of_position (q := s.seq) (by rw [hq]; trivial) hi.position
  have hrun := busy_rounds hl ⟨hb, hi.word, hi.fits⟩ hk todo more n s.polls
  rw [← hq, ← hlevels, atBus_self] at hrun
  exact ⟨_, hrun, hb, hq, rfl, rfl, busTrace_atBus _ _ _ _ _⟩

end Sys2Proof.Machine
end

section
/-! PROOFS. Panel: how far a running command is from its end, and what QUANTIZE and PACK leave of the panel
(10_state.md R57, R62, 20_memory.md R82, 43_panel.md R250, R256, 70_reset_and_hazards.md R373). -/

namespace Sys2Proof.Machine

/-! The rank of a running command's position, which every step lowers that does not end the command. -/

/-- Cells or tiles that a mode gathers before its first pixel (41_dither.md R200, R210). -/
def blocksOf (i : Instr) (o : Op) : Nat :=
  match i with
  | .quantizeHalftone => blockCount 4 o.imgW o.imgH
  | .quantizePopart => blockCount 8 o.imgW o.imgH
  | _ => 0

/-- Data bytes that a transfer sends (43_panel.md R276, R282, R288). -/
def sentBytes (i : Instr) (o : Op) : Nat :=
  match i with
  | .panelBlank _ => o.windowBytes
  | _ => o.len

/-- The rank of a list step: a wait with bound `k` reads the line at most `k` times and delays in between (R256). -/
def stepRank (k : Nat) : PanelStep → Nat
  | .cmd _ | .data _ => 1
  | .waitBusy => 2 * k + 2

/-- The rank of a step list: of its steps, and of the change of PSTATE after them (R255). -/
def listRank (k : Nat) (todo : List PanelStep) : Nat := (todo.map (stepRank k)).sum + 1

/-- The rank at data byte `k`: the bytes still to send, and the refresh after them (R265). -/
def dataRank (i : Instr) (p : Params) (o : Op) (k : Nat) : Nat :=
  sentBytes i o - k + listRank o.timeout p.refreshSeq + 2

/-- The rank at event `k` of the frames, which are at most ten events: the window frame's nine and the data command. -/
def headerRank (i : Instr) (p : Params) (o : Op) (k : Nat) : Nat := 10 - k + dataRank i p o 0 + 1

/-- The rank of the position in `s` of a running command `i`. -/
def rank (i : Instr) (s : State) : Nat :=
  match s.seq with
  | .idle | .finish => 0
  | .setup => blocksOf i s.op + dstLen i s.op + 2
  | .tally k => blocksOf i s.op - k + dstLen i s.op + 1
  | .pixel k | .packByte k => dstLen i s.op - k
  | .check k => srcLen i s.op - k + dstLen i s.op + headerRank i s.par s.op 0 + 2
  | .resetLine k => 7 - k
  | .transmit => headerRank i s.par s.op 0 + 1
  | .header k => headerRank i s.par s.op k
  | .data k => dataRank i s.par s.op k
  | .refresh => listRank s.op.timeout s.par.refreshSeq + 1
  | .steps todo => listRank s.op.timeout todo
  | .poll todo => listRank s.op.timeout todo + 2 * (s.op.timeout - s.polls) + 1
  | .polled todo =>
    listRank s.op.timeout todo + if s.polls < s.op.timeout then 2 * (s.op.timeout - s.polls) + 2 else 0

/-- From `s` to `t` the command comes nearer to its end, and runs no list step that `s` had not still to run. -/
structure Nearer (i : Instr) (s t : State) : Prop where
  rank : rank i t < rank i s
  steps : stepsToRun i t ⊆ stepsToRun i s

/-- The condition for an end: a wait still to come has a bound (R256). -/
def WaitsBounded (i : Instr) (s : State) : Prop := .waitBusy ∈ stepsToRun i s → 1 ≤ s.op.timeout

/-! QUANTIZE and PACK. -/

/-- A step of a command that works in data memory: it goes on, nearer to its end, or it is over. -/
inductive WorkStep (i : Instr) (s : State) : State → Prop
  | goesOn {t : State}
      (hframe : t = { s with
        seq := t.seq, mem := t.mem, fs := t.fs, cellSums := t.cellSums, tileVotes := t.tileVotes })
      (hnearer : Nearer i s t) : WorkStep i s t
  | completes (r : Option Nat) : WorkStep i s (complete r s)
  | fails (e : ErrCode) : WorkStep i s (raise e s)

section steps
variable {i : Instr} {s t : State}

theorem workStep_paint {k : Nat} (hi : isQuantize i = true) (hq : s.seq = .pixel k) (c : Code) (acc : FsAcc) :
    WorkStep i s (if k < s.op.gridBytes then { putCode k c s with fs := acc } else finishQuantize s) := by
  split
  · next hk =>
    refine .goesOn rfl ⟨?_, by simp [stepsToRun, hq]⟩
    have hdst : k < dstLen i s.op := dstLen_quantize hi s.op ▸ hk
    simp only [rank, hq, putCode_seq, putCode_op]
    omega
  · exact .completes _

theorem workStep_paintStep {k : Nat} (hi : isQuantize i = true) (hq : s.seq = .pixel k) (c : Code) :
    WorkStep i s (paintStep k c s) := workStep_paint hi hq c s.fs

theorem workStep_cellStep {k : Nat} (hq : s.seq = .tally k) : WorkStep .quantizeHalftone s (cellStep k s) := by
  unfold cellStep
  split <;> exact .goesOn rfl ⟨by simp only [rank, hq, blocksOf]; omega, by simp [stepsToRun, hq]⟩

theorem workStep_tileStep {k : Nat} (hq : s.seq = .tally k) : WorkStep .quantizePopart s (tileStep k s) := by
  unfold tileStep
  split <;> exact .goesOn rfl ⟨by simp only [rank, hq, blocksOf]; omega, by simp [stepsToRun, hq]⟩

theorem workStep_packCheckStep {k : Nat} (hq : s.seq = .check k) : WorkStep .pack s (packCheckStep k s) := by
  unfold packCheckStep
  split
  · next hk =>
    have hsrc : k < srcLen .pack s.op := hk
    split
    · exact .goesOn rfl ⟨by simp only [rank, hq]; omega, by simp [stepsToRun, hq]⟩
    · exact .fails _
  · exact .goesOn rfl ⟨by simp only [rank, hq]; omega, by simp [stepsToRun, hq]⟩

theorem workStep_packByteStep {k : Nat} (hq : s.seq = .packByte k) : WorkStep .pack s (packByteStep k s) := by
  unfold packByteStep
  split
  · next hk =>
    have hdst : k < dstLen .pack s.op := hk
    exact .goesOn rfl ⟨by simp only [rank, hq]; omega, by simp [stepsToRun, hq]⟩
  · exact .completes _

/-- Every step of a command that is no panel command. MATCH has none. -/
theorem body_workStep (hi : isPanel i = false) (h : bodyOf i s = .next t) : WorkStep i s t := by
  cases i with
  | matchRgb => cases h
  | quantizeNone =>
    simp only [bodyOf, bodyQuantizeNone] at h
    split at h <;> cases h
    next hq => exact workStep_paintStep rfl hq _
  | quantizeOrdered =>
    simp only [bodyOf, bodyQuantizeOrdered] at h
    split at h <;> cases h
    next hq => exact workStep_paintStep rfl hq _
  | quantizeFs =>
    simp only [bodyOf, bodyQuantizeFs] at h
    split at h <;> cases h
    · next hq => exact .goesOn rfl ⟨by simp only [rank, hq]; omega, by simp [stepsToRun, hq]⟩
    · next hq => exact workStep_paint rfl hq _ _
  | quantizeHalftone =>
    simp only [bodyOf, bodyQuantizeHalftone] at h
    split at h <;> cases h
    · next hq => exact .goesOn rfl ⟨by simp only [rank, hq]; omega, by simp [stepsToRun, hq]⟩
    · next hq => exact workStep_cellStep hq
    · next hq => exact workStep_paintStep rfl hq _
  | quantizePopart =>
    simp only [bodyOf, bodyQuantizePopart] at h
    split at h <;> cases h
    · next hq => exact .goesOn rfl ⟨by simp only [rank, hq]; omega, by simp [stepsToRun, hq]⟩
    · next hq => exact workStep_tileStep hq
    · next hq => exact workStep_paintStep rfl hq _
  | pack =>
    simp only [bodyOf, bodyPack] at h
    split at h <;> cases h
    · next hq => exact workStep_packCheckStep hq
    · next hq => exact workStep_packByteStep hq
  | panelReset | panelInit | panelFull | panelPartial | panelBlank _ | panelSleep => cases hi

end steps

/-- QUANTIZE and PACK run in the PSTATE of their accept (43_panel.md R250, R261). -/
theorem seqPState_of_not_panel {i : Instr} {p p' : PState} {q : Seq} (hi : isPanel i = false)
    (h : seqPState i p q = some p') : p = p' := by
  cases i with
  | panelReset | panelInit | panelFull | panelPartial | panelBlank _ | panelSleep => cases hi
  | _ => cases q <;> cases h <;> rfl

/-- Settles O52: a step of QUANTIZE or PACK works in data memory; a failing PACK returns PSTATE to what it was. -/
theorem onlyPanelCommandsTouchThePanel : Obligations.OnlyPanelCommandsTouchThePanel := by
  intro s t i hs hb hd hi h
  obtain ⟨j, hrun, hbody, -⟩ := hs.progress_of_engineStep hb h
  obtain rfl : i = j := Except.ok.inj (hd.symm.trans hrun.word)
  cases body_workStep hi hbody with
  | goesOn hframe => rw [hframe]; exact ⟨rfl, rfl, rfl, rfl⟩
  | completes => exact ⟨rfl, rfl, rfl, rfl⟩
  | fails => exact ⟨seqPState_of_not_panel hi hrun.position, rfl, rfl, rfl⟩

/-! The panel commands. -/

section panel
variable {i : Instr} {s t : State}

theorem nearer_listStep {todo : List PanelStep} (hq : s.seq = .steps todo) (after : PState) :
    Nearer i s (listStep after todo s) := by
  match todo with
  | [] => exact ⟨by simp [rank, hq, listStep, listRank], by simp [stepsToRun, listStep]⟩
  | .cmd b :: rest | .data b :: rest =>
    exact ⟨by simp [rank, hq, listStep, listRank, stepRank], by simp [stepsToRun, hq, listStep]⟩
  | .waitBusy :: rest =>
    exact ⟨by simp only [rank, hq, listStep, listRank, List.map_cons, List.sum_cons, stepRank]; omega,
      by simp [stepsToRun, hq, listStep]⟩

theorem nearer_pollStep {todo : List PanelStep} (hq : s.seq = .poll todo) : Nearer i s (pollStep todo s) := by
  unfold pollStep
  split
  · refine ⟨?_, by simp [stepsToRun, hq]⟩
    simp only [rank, hq, readBusyLine_op]
    split <;> omega
  · exact ⟨by simp only [rank, hq, readBusyLine_op]; omega, by simp [stepsToRun, hq]⟩

theorem nearer_polledStep {todo : List PanelStep} (hq : s.seq = .polled todo) (hwaits : WaitsBounded i s) :
    (polledStep todo s).busy = true → Nearer i s (polledStep todo s) := by
  have hbound : 1 ≤ s.op.timeout := hwaits (by simp [stepsToRun, hq])
  unfold polledStep
  split
  · nofun
  · next hgoes =>
    simp only [pollsExhausted, Bool.and_eq_true, decide_eq_true_eq] at hgoes
    have hlt : s.polls < s.op.timeout := by omega
    exact fun _ => ⟨by simp only [rank, hq, emit_seq, emit_op, emit_polls, if_pos hlt]; omega,
      by simp [stepsToRun, hq]⟩

theorem nearer_listBody {after : PState} {r : Option Nat} (h : listBody after r s = .next t) (hb : t.busy = true)
    (hwaits : WaitsBounded i s) : Nearer i s t := by
  unfold listBody at h
  split at h <;> cases h
  · next hq => exact nearer_listStep hq after
  · next hq => exact nearer_pollStep hq
  · next hq => exact nearer_polledStep hq hwaits hb
  · cases hb

theorem nearer_bufferCheckStep {k : Nat} (hi : i = .panelFull ∨ i = .panelPartial) (hq : s.seq = .check k) :
    (bufferCheckStep k s).busy = true → Nearer i s (bufferCheckStep k s) := by
  obtain ⟨hsrc, hpack⟩ : srcLen i s.op = s.op.len ∧ i ≠ .pack := by
    rcases hi with rfl | rfl <;> exact ⟨rfl, nofun⟩
  unfold bufferCheckStep
  split
  · split
    · exact fun _ => ⟨by simp only [rank, hq]; omega, by simp [stepsToRun, hq]⟩
    · nofun
  · exact fun _ => ⟨by simp only [rank, hq]; omega, by simp [stepsToRun, hq, hpack]⟩

theorem nearer_transferBody {frames : List BusEvent} {byte : Nat → Byte} (hframes : frames.length ≤ 10)
    (h : transferBody frames (sentBytes i s.op) byte s = .next t) (hb : t.busy = true) (hwaits : WaitsBounded i s) :
    Nearer i s t := by
  unfold transferBody at h
  split at h
  · next hq =>
    cases h
    exact ⟨by simp only [rank, hq]; omega, by simp [stepsToRun, hq]⟩
  · next k hq =>
    cases h
    unfold headerStep
    split
    · next hk =>
      have hlt : k < frames.length := (List.getElem?_eq_some_iff.1 hk).1
      exact ⟨by simp only [rank, hq, headerRank, emit_seq, emit_op, emit_par]; omega, by simp [stepsToRun, hq]⟩
    · exact ⟨by simp only [rank, hq, headerRank]; omega, by simp [stepsToRun, hq]⟩
  · next k hq =>
    cases h
    unfold dataStep
    split
    · exact ⟨by simp only [rank, hq, dataRank, emit_seq, emit_op, emit_par]; omega, by simp [stepsToRun, hq]⟩
    · exact ⟨by simp only [rank, hq, dataRank]; omega, by simp [stepsToRun, hq]⟩
  · next hq =>
    cases h
    exact ⟨by simp only [rank, hq]; omega, by simp [stepsToRun, hq]⟩
  · exact nearer_listBody h hb hwaits

theorem nearer_resetLineStep {k : Nat} (hq : s.seq = .resetLine k) :
    (resetLineStep k s).busy = true → Nearer i s (resetLineStep k s) := by
  unfold resetLineStep
  split
  iterate 7 exact fun _ => ⟨by simp [rank, hq], by simp [stepsToRun, hq]⟩
  · nofun

theorem length_windowFrame (p : Params) (o : Op) : (windowFrame p o ++ dataFrame p).length = 10 := rfl

/-- Every step of a command that goes on. -/
theorem body_nearer (h : bodyOf i s = .next t) (hb : t.busy = true) (hwaits : WaitsBounded i s) : Nearer i s t := by
  cases i with
  | matchRgb | quantizeNone | quantizeFs | quantizeHalftone | quantizeOrdered | quantizePopart | pack =>
    cases body_workStep rfl h with
    | goesOn _ hnearer => exact hnearer
    | completes | fails => cases hb
  | panelReset =>
    simp only [bodyOf, bodyPanelReset] at h
    split at h <;> cases h
    next hq => exact nearer_resetLineStep hq hb
  | panelInit | panelSleep => exact nearer_listBody h hb hwaits
  | panelFull =>
    simp only [bodyOf, bodyPanelFull] at h
    split at h
    · next hq => cases h; exact nearer_bufferCheckStep (.inl rfl) hq hb
    · exact nearer_transferBody (Nat.le_of_ble_eq_true rfl) h hb hwaits
  | panelPartial =>
    simp only [bodyOf, bodyPanelPartial] at h
    split at h
    · next hq => cases h; exact nearer_bufferCheckStep (.inr rfl) hq hb
    · exact nearer_transferBody (length_windowFrame _ _).le h hb hwaits
  | panelBlank c => exact nearer_transferBody (Nat.le_of_ble_eq_true rfl) h hb hwaits

end panel

/-! The end (R62, R373). -/

/-- The step that ends a command sets DONE or ERR. -/
theorem Progress.done_or_err {i : Instr} {s t : State} (h : Progress i s t) (hb : s.busy = true) (ht : t.busy = false) :
    t.done = true ∨ t.err = true := by
  rcases h with hgo | hdone | ⟨e, -, rfl⟩
  · exact absurd ((hgo.busy.trans hb).symm.trans ht) nofun
  · exact .inl hdone.flags.2.1
  · exact .inr rfl

/-- The engine, left alone, ends the command: by induction on the rank of its position. -/
theorem Inv.runs_to_end {i : Instr} {s : State} (hs : Inv s) (hb : s.busy = true) (hd : decode s.op.word = .ok i)
    (hwaits : WaitsBounded i s) :
    ∃ n u, engineRun n s = .next u ∧ u.busy = false ∧ (u.done = true ∨ u.err = true) := by
  induction hrank : rank i s using Nat.strong_induction_on generalizing s with
  | _ m ih =>
    obtain ⟨t, ht⟩ := theEngineNeverStops s hs
    obtain ⟨j, hrun, hbody, hprog⟩ := hs.progress_of_engineStep hb ht
    obtain rfl : i = j := Except.ok.inj (hd.symm.trans hrun.word)
    cases htb : t.busy with
    | false => exact ⟨1, t, engineRun_succ ht, htb, hprog.done_or_err hb htb⟩
    | true =>
      obtain ⟨hlt, hsub⟩ := body_nearer hbody htb hwaits
      have hop : t.op = s.op := (engineOwnOnly_of_engineStep ht).latched.1
      obtain ⟨n, u, hn, hu⟩ := ih _ (hrank ▸ hlt) (hs.of_engineStep ht).1 htb (hop ▸ hd)
        (fun hmem => hop ▸ hwaits (hsub hmem)) rfl
      exact ⟨n + 1, u, (engineRun_succ ht).trans hn, hu⟩

/-- Settles O44: the rank goes down until a step ends the command. -/
theorem runningCommandsEnd : Obligations.RunningCommandsEnd :=
  fun _ _ hs hb hd hwaits => hs.runs_to_end hb hd hwaits

end Sys2Proof.Machine
end

section
/-! PROOFS. Greys: which entry of the default palette is nearest to a grey (40_palette.md R161, R162, R168). -/

namespace Sys2Proof.Machine

/-- How many channels of an entry of the default palette are 255; the others are 0 (10_state.md R50). -/
def litChannels : Ink → Int
  | .black => 0
  | .white => 3
  | .yellow => 2
  | .red | .blue | .green => 1

theorem litChannels_nonneg (i : Ink) : 0 ≤ litChannels i := by cases i <;> decide

theorem litChannels_le_three (i : Ink) : litChannels i ≤ 3 := by cases i <;> decide

theorem litChannels_lt_three {i : Ink} (hi : i ≠ .white) : litChannels i < 3 := by
  cases i with
  | white => exact absurd rfl hi
  | black | yellow | red | blue | green => decide

/-- Each lit channel moves the distance from Black's by the same amount, (255 - v)² - v². -/
theorem inkDist_grey (v : Int) (i : Ink) :
    inkDist defaultPalette { r := v, g := v, b := v } i = 3 * v ^ 2 + litChannels i * (65025 - 510 * v) := by
  cases i <;> simp [inkDist, inkRgb, chanMap, inkGet, defaultPalette, rgbByte, litChannels] <;> ring

/-- Up to 127 a lit channel adds to the distance, and Black has none. -/
theorem nearest_grey_of_le {v : Int} (hv : v ≤ 127) :
    nearest defaultPalette { r := v, g := v, b := v } = .black := by
  have hleast (j : Ink) : 0 ≤ litChannels j * (65025 - 510 * v) :=
    mul_nonneg (litChannels_nonneg j) (by omega)
  refine (nearest_eq_iff _ _ _).2 ⟨fun j => ?_, fun j hj => absurd hj (Nat.not_lt_zero _)⟩
  simpa [inkDist_grey, litChannels] using hleast j

/-- From 128 on a lit channel takes from the distance, and White alone has all three. -/
theorem nearest_grey_of_lt {v : Int} (hv : 127 < v) :
    nearest defaultPalette { r := v, g := v, b := v } = .white := by
  have hneg : 65025 - 510 * v < 0 := by omega
  refine (nearest_eq_iff _ _ _).2 ⟨fun j => ?_, fun j hj => ?_⟩ <;> rw [inkDist_grey, inkDist_grey]
  · exact Int.add_le_add_left (mul_le_mul_of_nonpos_right (litChannels_le_three j) hneg.le) _
  · have hj : j ≠ .white := fun h => absurd hj (h ▸ Nat.lt_irrefl _)
    exact Int.add_lt_add_left (mul_lt_mul_of_neg_right (litChannels_lt_three hj) hneg) _

/-- Settles O19: the distance to a grey is linear in the number of lit channels, and the slope's sign turns between
127 and 128. -/
theorem greysMatchBlackOrWhite : Obligations.GreysMatchBlackOrWhite := by
  intro v _ _
  split
  · next hv => exact nearest_grey_of_le hv
  · next hv => exact nearest_grey_of_lt (not_le.mp hv)

end Sys2Proof.Machine
end
